-- ==== Sys2Proof/Word.lean ====
section
/-! DEFINITION. The words of the R36C block: 8-bit symbols (00_scope.md R14), 32-bit registers
(10_state.md R23) and the 6-bit word index of a host access (20_memory.md R60). -/

namespace Sys2Proof

/-- One symbol, one byte (00_scope.md R14). -/
abbrev Byte := BitVec 8

/-- One host-visible register, one command word (10_state.md R23, 30_encoding.md R81). -/
abbrev Word := BitVec 32

/-- A word index of the host register space (20_memory.md R60). -/
abbrev HostIndex := BitVec 6

end Sys2Proof
end

