-- ==== Sys2Proof/Config.lean ====
section
/-! DEFINITION. What the spec leaves open. CORE_LATENCY, its one open parameter, is no number here:
every schedule of turns is allowed (00_scope.md R9, 70_reset_and_hazards.md R246). What is left are
the values of the internal datapath registers outside a command, "unspecified and unobservable"
(10_state.md R48, R49; 93_implementation_defined.md I4 `any value`): FREE VALUES, one uninterpreted
constant per register, applied to the number of the draw. Nothing can be proved of their values. -/

namespace Sys2Proof.Config

/-- NEG of the encode datapath after an ENCODE (10_state.md R48). -/
opaque freeEncodeNeg : Nat → Bool
/-- MAG after an ENCODE (10_state.md R48). -/
opaque freeMag : Nat → BitVec 63
/-- DCNT after an ENCODE (10_state.md R48). -/
opaque freeDcnt : Nat → BitVec 4
/-- DBUF after an ENCODE (10_state.md R48). -/
opaque freeDbuf : Nat → Vector Byte 13
/-- NEG of the decode datapath after a DECODE (10_state.md R49). -/
opaque freeDecodeNeg : Nat → Bool
/-- START after a DECODE (10_state.md R49). -/
opaque freeStart : Nat → BitVec 1
/-- N after a DECODE (10_state.md R49). -/
opaque freeN : Nat → BitVec 4
/-- IDX after a DECODE (10_state.md R49). -/
opaque freeIdx : Nat → BitVec 4
/-- ACC after a DECODE (10_state.md R49). -/
opaque freeAcc : Nat → BitVec 68
/-- BAD after a DECODE (10_state.md R49). -/
opaque freeBad : Nat → Bool

end Sys2Proof.Config
end

