-- ==== Sys2Proof/Syntax.lean ====
section
/-! DEFINITION. The commands of the block, one constructor per row of the opcode table
(30_encoding.md R80 to R85). A command has no operand field (R86); the illegal rows keep the bits
their row leaves free. -/

namespace Sys2Proof

/-- A command. The three illegal constructors are the table's three rows of the mnemonic ILLEGAL;
all of them are real commands that are issued and complete (40_command_control.md R101, R109). -/
inductive Instr where
  /-- NOP, word 0 (40_command_control.md R108). -/
  | nop
  /-- CONFIG, word 1 (41_construction.md R120). -/
  | config
  /-- ENCODE, word 2 (42_encode.md R140). -/
  | encode
  /-- DECODE, word 3 (43_decode.md R160). -/
  | decode
  /-- A reserved OP of 4..7 with RSVD zero (30_encoding.md R84). -/
  | illegalOpLow (op : BitVec 4)
  /-- A reserved OP of 8..15 with RSVD zero (30_encoding.md R84). -/
  | illegalOpHigh (op : BitVec 4)
  /-- Any OP with RSVD nonzero (30_encoding.md R83). -/
  | illegalRsvd (op : BitVec 4) (rsvd : BitVec 28)
  deriving DecidableEq, Repr

end Sys2Proof
end

