-- ==== Sys2Proof/WellFormed.lean ====
section
/-! DEFINITION. Which commands are well formed: those that some command word stands for
(30_encoding.md R82). -/

namespace Sys2Proof

/-- The operand of an illegal command lies where its row of the opcode table puts it: OP 4..7, OP
8..15, or any OP beside a nonzero RSVD (30_encoding.md R82 to R84). -/
def Instr.wellFormed : Instr → Bool
  | .nop => true
  | .config => true
  | .encode => true
  | .decode => true
  | .illegalOpLow op => decide (4 ≤ op.toNat ∧ op.toNat ≤ 7)
  | .illegalOpHigh op => decide (8 ≤ op.toNat)
  | .illegalRsvd _ rsvd => decide (rsvd ≠ 0)

end Sys2Proof
end

