-- ==== Sys2Proof/Decode.lean ====
section
/-! DEFINITION. The command decoder (30_encoding.md R82), total on words, its form on byte strings,
which refuses by name what is shorter than a command word, and the encoder, written from the same
table. -/

namespace Sys2Proof

/-- The OP field, bits [3:0] of a command word (30_encoding.md R80). -/
def opField (w : Word) : BitVec 4 := w.extractLsb' 0 4

/-- The RSVD field, bits [31:4] of a command word (30_encoding.md R80). -/
def rsvdField (w : Word) : BitVec 28 := w.extractLsb' 4 28

/-- The decoder, in the order of 30_encoding.md R82: RSVD first, then OP. Every word is some
command (R101). -/
def decodeWord (w : Word) : Instr :=
  if rsvdField w ≠ 0 then .illegalRsvd (opField w) (rsvdField w)
  else if opField w = 0 then .nop
  else if opField w = 1 then .config
  else if opField w = 2 then .encode
  else if opField w = 3 then .decode
  else if (opField w).toNat < 8 then .illegalOpLow (opField w)
  else .illegalOpHigh (opField w)

/-- The word of four bytes, the first the least significant (20_memory.md R64). -/
def wordOfBytes (b0 b1 b2 b3 : Byte) : Word := b3 ++ b2 ++ b1 ++ b0

/-- Byte `k` of a word, byte 0 the least significant (20_memory.md R64, R65). -/
def byteOfWord (w : Word) (k : Nat) : Byte := w.extractLsb' (8 * k) 8

/-- Why a byte string holds no command word. -/
inductive DecodeError where
  /-- Fewer than the four bytes of a command word (30_encoding.md R81: "exactly 32 bits"). -/
  | truncated
  deriving DecidableEq, Repr

/-- The decoder on a string of bytes laid out little-endian: the first command and the bytes after
it (log 21). -/
def decodeBytes : List Byte → Except DecodeError (Instr × List Byte)
  | b0 :: b1 :: b2 :: b3 :: rest => .ok (decodeWord (wordOfBytes b0 b1 b2 b3), rest)
  | _ => .error .truncated

/-- The OP field that a command's word carries (30_encoding.md R82). -/
def Instr.op : Instr → BitVec 4
  | .nop => 0
  | .config => 1
  | .encode => 2
  | .decode => 3
  | .illegalOpLow op => op
  | .illegalOpHigh op => op
  | .illegalRsvd op _ => op

/-- The RSVD field that a command's word carries (30_encoding.md R82). -/
def Instr.rsvd : Instr → BitVec 28
  | .nop => 0
  | .config => 0
  | .encode => 0
  | .decode => 0
  | .illegalOpLow _ => 0
  | .illegalOpHigh _ => 0
  | .illegalRsvd _ rsvd => rsvd

/-- The encoder: the command word of format C32 (30_encoding.md R80). -/
def encodeWord (i : Instr) : Word := i.rsvd ++ i.op

/-- The four bytes of a word as the block orders them, the least significant first
(20_memory.md R64). -/
def bytesOfWord (w : Word) : List Byte :=
  [byteOfWord w 0, byteOfWord w 1, byteOfWord w 2, byteOfWord w 3]

/-- A command's word as bytes. -/
def encodeBytes (i : Instr) : List Byte := bytesOfWord (encodeWord i)

/-- The host's question to the decoder: the command read from an instruction of `nbits` bits `w`.
A command is exactly 32 bits (30_encoding.md R81), so a longer one is none (log 21); a shorter one is
taken as the 32-bit word whose bits above `nbits` are zero (DESIGN CHOICE, log 23). -/
def decodeTableWord (nbits w : Nat) : Option Instr :=
  if nbits ≤ 32 then
    match decodeBytes (bytesOfWord (BitVec.ofNat 32 (w % 2 ^ nbits))) with
    | .ok (i, []) => some i
    | _ => none
  else none

end Sys2Proof
end

