-- ==== Sys2Proof/Machine/Tables.lean ====
section
/-! DEFINITION. The constants of the block: the identification word, the default alphabet and the
weight ROM (10_state.md R24, R44, R45). They are fixed at manufacture, so they are definitions and
no fields of the state (log 19). -/

namespace Sys2Proof.Machine

/-- The constant of register ID (10_state.md R24). -/
def idWord : Word := 0x52333601

/-- The default alphabet: ASCII 0x30..0x39, then 0x61..0x7A (10_state.md R45). -/
def defaultAlphabet : Vector Byte 36 :=
  #v[0x30, 0x31, 0x32, 0x33, 0x34, 0x35, 0x36, 0x37, 0x38, 0x39,
     0x61, 0x62, 0x63, 0x64, 0x65, 0x66, 0x67, 0x68, 0x69, 0x6A, 0x6B, 0x6C, 0x6D,
     0x6E, 0x6F, 0x70, 0x71, 0x72, 0x73, 0x74, 0x75, 0x76, 0x77, 0x78, 0x79, 0x7A]

/-- The weight ROM POW[0..12], the hex column of the table of 10_state.md R44. -/
def weightRom : Vector (BitVec 63) 13 :=
  #v[0x1, 0x24, 0x510, 0xB640, 0x19A100, 0x39AA400, 0x81BF1000, 0x123EDE4000, 0x290D7410000,
     0x5C5E45240000, 0xCFD41B9100000, 0x1D39D3E06400000, 0x41C21CB8E1000000]

/-- The sign byte '-' (00_scope.md R11; 42_encode.md R146, 43_decode.md R164). -/
def minusSign : Byte := 0x2D

end Sys2Proof.Machine
end

