-- ==== Sys2Proof/Machine/State.lean ====
section
/-! DEFINITION. The state of the block as plain data (10_state.md R20, R23, R46 to R49), the turns of
its agents, the reasons a step can stop, and the state after reset (R52). -/

namespace Sys2Proof.Machine

/-- The eight status codes, the only values STATUS.ERR ever takes (60_exceptions.md R200, R206). -/
inductive StatusCode where
  | ok
  | numberTooLarge
  | invalidCharacter
  | alphabetLength
  | alphabetDuplicate
  | notConfigured
  | encodeRange
  | illegalCommand
  deriving DecidableEq, Repr

/-- The internal registers of the encode datapath (10_state.md R48). -/
structure EncodePath where
  /-- NEG, the sign flag. -/
  neg : Bool
  /-- MAG, the absolute magnitude. -/
  mag : BitVec 63
  /-- DCNT, the number of digits extracted so far. -/
  dcnt : BitVec 4
  /-- DBUF, the extracted symbols. -/
  dbuf : Vector Byte 13
  deriving DecidableEq, Repr

/-- The internal registers of the decode datapath (10_state.md R49). -/
structure DecodePath where
  /-- NEG, the sign flag. -/
  neg : Bool
  /-- START, the index of the first digit byte. -/
  start : BitVec 1
  /-- N, the symbol count. -/
  n : BitVec 4
  /-- IDX, the index of the next symbol. -/
  idx : BitVec 4
  /-- ACC, the running total. -/
  acc : BitVec 68
  /-- BAD, an invalid symbol was found. -/
  bad : Bool
  deriving DecidableEq, Repr

/-- One turn of the total order of steps (20_memory.md R70): a host access (00_scope.md R10), the
core's turn (40_command_control.md R103), or the reset input (70_reset_and_hazards.md R230). -/
inductive Turn where
  /-- HostRead(w) (20_memory.md R62). -/
  | hostRead (w : HostIndex)
  /-- HostWrite(w, d) (20_memory.md R63). -/
  | hostWrite (w : HostIndex) (d : Word)
  /-- The core's turn: its completion step, where one is enabled. -/
  | core
  /-- The reset step. -/
  | reset
  deriving DecidableEq, Repr

/-- The registers of the map of 10_state.md R23, by name. -/
inductive HostReg where
  | id
  | ctrl
  | cmd
  | status
  | valInLo
  | valInHi
  | valOutLo
  | valOutHi
  | decLen
  | encLen
  | cfgLen
  | decText (k : Fin 4)
  | encText (k : Fin 4)
  | cfgAlpha (k : Fin 9)
  | actAlpha (k : Fin 9)
  | reserved
  deriving DecidableEq, Repr

/-- The reasons the block stops with a fault: none. No access faults (20_memory.md R69) and the
block takes no traps (60_exceptions.md R210). That is safe: no step can answer a fault (log 18). -/
inductive Fault where
  deriving DecidableEq, Repr

/-- The reasons a command has no meaning. -/
inductive Refusal where
  /-- Raised only by an arm of `exec` for a command without a meaning; no arm raises it. Safe: a
  refusal proves nothing about the block. -/
  | notModelled (mnemonic : String)
  deriving DecidableEq, Repr

/-- The state of the block: its host-visible registers, the two alphabets, the accepted command
word, the datapath registers (10_state.md R20), and three fields of the model's own. -/
structure State where
  /-- CTRL.IE (10_state.md R25). -/
  ie : Bool
  /-- STATUS.BUSY (10_state.md R28). -/
  busy : Bool
  /-- STATUS.DONE (10_state.md R29). -/
  done : Bool
  /-- STATUS.CFG_VALID (10_state.md R30). -/
  cfgValid : Bool
  /-- STATUS.OVR (10_state.md R31). -/
  ovr : Bool
  /-- STATUS.ERR (10_state.md R32). -/
  err : StatusCode
  /-- STATUS.LAST_OP (10_state.md R33). -/
  lastOp : BitVec 4
  /-- VAL_IN_LO (10_state.md R34). -/
  valInLo : Word
  /-- VAL_IN_HI (10_state.md R34). -/
  valInHi : Word
  /-- VAL_OUT_LO (10_state.md R35). -/
  valOutLo : Word
  /-- VAL_OUT_HI (10_state.md R35). -/
  valOutHi : Word
  /-- DEC_LEN (10_state.md R36). -/
  decLen : Word
  /-- ENC_LEN[4:0] (10_state.md R37). -/
  encLen : BitVec 5
  /-- CFG_LEN (10_state.md R38). -/
  cfgLen : Word
  /-- DT, the decode text buffer DEC_TEXT0..3 (10_state.md R39). -/
  decText : Vector Byte 16
  /-- ET, the encode text buffer ENC_TEXT0..3 (10_state.md R40). -/
  encText : Vector Byte 16
  /-- CFGA, the staging alphabet CFG_ALPHA0..8 (10_state.md R41). -/
  cfgAlpha : Vector Byte 36
  /-- ALPHA, the active alphabet ACT_ALPHA0..8 (10_state.md R42). -/
  actAlpha : Vector Byte 36
  /-- PEND, the accepted command word (10_state.md R47). -/
  pend : Word
  /-- The encode datapath (10_state.md R48). -/
  encPath : EncodePath
  /-- The decode datapath (10_state.md R49). -/
  decPath : DecodePath
  /-- The model's own: the word the last HostRead returned, as the host sees it (log 5). -/
  readData : Word
  /-- The model's own: the turns still to come, in their total order (20_memory.md R70; log 1). -/
  schedule : List Turn
  /-- The model's own: the number of the next free draw (log 8). -/
  draws : Nat
  deriving DecidableEq, Repr

/-- The block after reset: the values of 10_state.md R52. PEND and the datapath registers, whose
reset values the spec leaves unspecified, hold zero (DESIGN CHOICE, log 6 and log 7); the model's own
fields are empty and zero (DESIGN CHOICE, log 1, log 5, log 8). -/
def State.reset : State where
  ie := false
  busy := false
  done := false
  cfgValid := true
  ovr := false
  err := .ok
  lastOp := 0
  valInLo := 0
  valInHi := 0
  valOutLo := 0
  valOutHi := 0
  decLen := 0
  encLen := 0
  cfgLen := 36
  decText := Vector.replicate 16 0
  encText := Vector.replicate 16 0
  cfgAlpha := defaultAlphabet
  actAlpha := defaultAlphabet
  pend := 0
  encPath := ⟨false, 0, 0, Vector.replicate 13 0⟩
  decPath := ⟨false, 0, 0, 0, 0, false⟩
  readData := 0
  schedule := []
  draws := 0

end Sys2Proof.Machine
end

