-- ==== Sys2Proof/Machine/Operands.lean ====
section
/-! DEFINITION. How operands are assembled and looked up: the register map (10_state.md R23), byte
buffers in words (20_memory.md R65), 64-bit register pairs (R64), case normalisation, the reverse map
and the weight ROM (10_state.md R43, R44; 43_decode.md R162). -/

namespace Sys2Proof.Machine

/-- The register at a word index (10_state.md R23); every index not in the table is reserved
(20_memory.md R62). -/
def hostReg (w : HostIndex) : HostReg :=
  match w.toNat with
  | 0 => .id
  | 1 => .ctrl
  | 2 => .cmd
  | 3 => .status
  | 4 => .valInLo
  | 5 => .valInHi
  | 6 => .valOutLo
  | 7 => .valOutHi
  | 8 => .decLen
  | 9 => .encLen
  | 10 => .cfgLen
  | n =>
    if h : 12 ≤ n ∧ n ≤ 15 then .decText ⟨n - 12, by omega⟩
    else if h : 16 ≤ n ∧ n ≤ 19 then .encText ⟨n - 16, by omega⟩
    else if h : 20 ≤ n ∧ n ≤ 28 then .cfgAlpha ⟨n - 20, by omega⟩
    else if h : 32 ≤ n ∧ n ≤ 40 then .actAlpha ⟨n - 32, by omega⟩
    else .reserved

/-- Byte `j` of a buffer; the block never looks past a buffer's end, where this reads 0
(log 22). -/
def byteAt {n : Nat} (v : Vector Byte n) (j : Nat) : Byte := (v[j]?).getD 0

/-- Word `k` of a buffer: byte 4k the least significant (20_memory.md R65). -/
def packWord {n : Nat} (v : Vector Byte n) (k : Nat) : Word :=
  wordOfBytes (byteAt v (4 * k)) (byteAt v (4 * k + 1)) (byteAt v (4 * k + 2)) (byteAt v (4 * k + 3))

/-- The buffer after a write of word `k` (20_memory.md R65). -/
def setWord {n : Nat} (v : Vector Byte n) (k : Nat) (d : Word) : Vector Byte n :=
  Vector.ofFn fun i => if i.val / 4 = k then byteOfWord d (i.val % 4) else v[i]

/-- A buffer that holds a string from byte 0 on, and 0x00 after its end (42_encode.md R146). -/
def bufferOf (n : Nat) (s : List Byte) : Vector Byte n :=
  Vector.ofFn fun i => (s[i.val]?).getD 0

/-- The 64-bit quantity of a LO/HI register pair (20_memory.md R64). -/
def pairValue (hi lo : Word) : BitVec 64 := hi ++ lo

/-- The LO half of a 64-bit quantity (20_memory.md R64). -/
def loHalf (x : BitVec 64) : Word := x.extractLsb' 0 32

/-- The HI half of a 64-bit quantity (20_memory.md R64). -/
def hiHalf (x : BitVec 64) : Word := x.extractLsb' 32 32

/-- `s64` (00_scope.md R12). -/
def s64 (v : BitVec 64) : Int := v.toInt

/-- `bits64` (00_scope.md R12). -/
def bits64 (x : Int) : BitVec 64 := BitVec.ofInt 64 x

/-- VAL_IN (10_state.md R34). -/
def State.valIn (s : State) : BitVec 64 := pairValue s.valInHi s.valInLo

/-- VAL_OUT (10_state.md R35). -/
def State.valOut (s : State) : BitVec 64 := pairValue s.valOutHi s.valOutLo

/-- Case normalisation of one byte, ASCII only (43_decode.md R162). -/
def lc (b : Byte) : Byte := if 0x41 ≤ b.toNat ∧ b.toNat ≤ 0x5A then b + 0x20 else b

/-- The reverse map of an alphabet: the position that holds a byte, or ABSENT (10_state.md R43).
The spec gives one position only for distinct symbols, as every configured alphabet has; elsewhere
this is the lowest position (log 11). -/
def rmap (alpha : Vector Byte 36) (c : Byte) : Option (Fin 36) :=
  (List.finRange 36).find? fun i => alpha[i] == c

/-- POW[k] (10_state.md R44); no command asks for `k` beyond 12 (log 22). -/
def weight (k : Nat) : BitVec 63 := (weightRom[k]?).getD 0

/-- Whether some byte stands twice in a string, compared exactly, byte for byte
(41_construction.md R122). -/
def hasDuplicate : List Byte → Bool
  | [] => false
  | b :: bs => bs.contains b || hasDuplicate bs

end Sys2Proof.Machine
end

