-- ==== Sys2Proof/Machine/Flags.lean ====
section
/-! DEFINITION. The status bits and the interrupt output: the numbering of the status codes
(60_exceptions.md R200), the words STATUS and CTRL read as (10_state.md R25, R27), and IRQ (R46). -/

namespace Sys2Proof.Machine

/-- The number of a status code (60_exceptions.md R200). -/
def StatusCode.bits : StatusCode → BitVec 4
  | .ok => 0
  | .numberTooLarge => 1
  | .invalidCharacter => 2
  | .alphabetLength => 3
  | .alphabetDuplicate => 4
  | .notConfigured => 5
  | .encodeRange => 6
  | .illegalCommand => 7

/-- The word CTRL reads as: IE in bit 0, the rest reserved, reading 0 (10_state.md R25). -/
def ctrlWord (s : State) : Word := 0#31 ++ BitVec.ofBool s.ie

/-- The word STATUS reads as (10_state.md R27): reserved, LAST_OP [19:16], reserved, ERR [11:8],
reserved, OVR, CFG_VALID, DONE, BUSY. -/
def statusWord (s : State) : Word :=
  0#12 ++ s.lastOp ++ 0#4 ++ s.err.bits ++ 0#4 ++ BitVec.ofBool s.ovr ++ BitVec.ofBool s.cfgValid
    ++ BitVec.ofBool s.done ++ BitVec.ofBool s.busy

/-- The level of the IRQ output (10_state.md R46, 60_exceptions.md R207). -/
def State.irq (s : State) : Bool := s.ie && s.done

end Sys2Proof.Machine
end

