-- ==== Sys2Proof/Machine/Ops.lean ====
section
/-! DEFINITION. The named operations of the block: issue and drop (40_command_control.md R101, R102),
completion (R104), the commands' result writes (60_exceptions.md R205), host reads and writes
(20_memory.md R62, R63) and reset (70_reset_and_hazards.md R230). Completion stands where another
machine takes an exception: every error is a completion with a code (60_exceptions.md R202, R210);
there is no return from one (R211). -/

namespace Sys2Proof.Machine

/-- Issue of a command word by a block that is not busy (40_command_control.md R101). -/
def State.issue (s : State) (d : Word) : State := { s with pend := d, busy := true, done := false }

/-- A busy-protected write is dropped (40_command_control.md R102, R106). -/
def State.dropWrite (s : State) : State := { s with ovr := true }

/-- `complete(code)`: the end of every completion step (40_command_control.md R104). -/
def State.complete (s : State) (code : StatusCode) : State :=
  { s with err := code, lastOp := opField s.pend, busy := false, done := true }

/-- The command the core dispatches, from PEND (40_command_control.md R105). -/
def State.fetch (s : State) : Instr := decodeWord s.pend

/-- A write to CTRL (20_memory.md R63). -/
def State.writeCtrl (s : State) (d : Word) : State := { s with ie := d.getLsbD 0 }

/-- A write to STATUS: write 1 to clear DONE (bit 1) and OVR (bit 3) (10_state.md R27,
20_memory.md R63). -/
def State.writeStatus (s : State) (d : Word) : State :=
  { s with done := s.done && !d.getLsbD 1, ovr := s.ovr && !d.getLsbD 3 }

/-- A write to a busy-protected register, `t` being the state with the register written: dropped
while busy (40_command_control.md R106). -/
def State.protectedWrite (s t : State) : State := if s.busy then s.dropWrite else t

/-- A write to CMD: issue, or drop while busy (40_command_control.md R101, R102). -/
def State.writeCmd (s : State) (d : Word) : State := s.protectedWrite (s.issue d)

/-- HostRead(w): the word returned (20_memory.md R62). -/
def hostRead (s : State) (w : HostIndex) : Word :=
  match hostReg w with
  | .id => idWord
  | .ctrl => ctrlWord s
  | .cmd => 0
  | .status => statusWord s
  | .valInLo => s.valInLo
  | .valInHi => s.valInHi
  | .valOutLo => s.valOutLo
  | .valOutHi => s.valOutHi
  | .decLen => s.decLen
  | .encLen => s.encLen.setWidth 32
  | .cfgLen => s.cfgLen
  | .decText k => packWord s.decText k
  | .encText k => packWord s.encText k
  | .cfgAlpha k => packWord s.cfgAlpha k
  | .actAlpha k => packWord s.actAlpha k
  | .reserved => 0

/-- HostWrite(w, d): the state after it (20_memory.md R63). -/
def hostWrite (s : State) (w : HostIndex) (d : Word) : State :=
  match hostReg w with
  | .id => s
  | .ctrl => s.writeCtrl d
  | .cmd => s.writeCmd d
  | .status => s.writeStatus d
  | .valInLo => s.protectedWrite { s with valInLo := d }
  | .valInHi => s.protectedWrite { s with valInHi := d }
  | .valOutLo => s
  | .valOutHi => s
  | .decLen => s.protectedWrite { s with decLen := d }
  | .encLen => s
  | .cfgLen => s.protectedWrite { s with cfgLen := d }
  | .decText k => s.protectedWrite { s with decText := setWord s.decText k d }
  | .encText _ => s
  | .cfgAlpha k => s.protectedWrite { s with cfgAlpha := setWord s.cfgAlpha k d }
  | .actAlpha _ => s
  | .reserved => s

/-- A host read as a turn: the host receives the word; the block is unchanged (20_memory.md R62). -/
def State.latchRead (s : State) (w : HostIndex) : State := { s with readData := hostRead s w }

/-- The reset step (70_reset_and_hazards.md R230, R231): every register at its reset value. The
turns to come, the host's last read word and the draw counter are not the block's and stay
(log 10). -/
def State.applyReset (s : State) : State :=
  { State.reset with readData := s.readData, schedule := s.schedule, draws := s.draws }

/-- The schedule without its first turn. -/
def State.popTurn (s : State) : State := { s with schedule := s.schedule.tail }

/-- A failed CONFIG leaves ALPHA and clears CFG_VALID (41_construction.md R124). -/
def State.invalidateCodec (s : State) : State := { s with cfgValid := false }

/-- A successful CONFIG installs the staging alphabet (41_construction.md R123). -/
def State.installAlphabet (s : State) : State :=
  { s with actAlpha := s.cfgAlpha, cfgValid := true }

/-- ENCODE's result registers hold a string: its length in ENC_LEN, its bytes in ET, then 0x00
(42_encode.md R146). The empty string is the error result (R148). -/
def State.putEncodeResult (s : State) (str : List Byte) : State :=
  { s with encLen := BitVec.ofNat 5 str.length, encText := bufferOf 16 str }

/-- DECODE's result registers hold a 64-bit value (43_decode.md R169); 0 is the error result
(R170). -/
def State.putDecodeResult (s : State) (x : BitVec 64) : State :=
  { s with valOutLo := loHalf x, valOutHi := hiHalf x }

/-- After an ENCODE the values of its datapath registers are unspecified: each is a free value
(10_state.md R48, log 8). -/
def State.releaseEncodePath (s : State) : State :=
  { s with
    encPath := ⟨Config.freeEncodeNeg s.draws, Config.freeMag s.draws, Config.freeDcnt s.draws,
      Config.freeDbuf s.draws⟩
    draws := s.draws + 1 }

/-- After a DECODE the values of its datapath registers are unspecified: each is a free value
(10_state.md R49, log 8). -/
def State.releaseDecodePath (s : State) : State :=
  { s with
    decPath := ⟨Config.freeDecodeNeg s.draws, Config.freeStart s.draws, Config.freeN s.draws,
      Config.freeIdx s.draws, Config.freeAcc s.draws, Config.freeBad s.draws⟩
    draws := s.draws + 1 }

end Sys2Proof.Machine
end

