-- ==== Sys2Proof/Machine/CommandControl.lean ====
section
/-! DEFINITION. The meanings of NOP and of the illegal commands (40_command_control.md R108, R109).
LAST_OP is PEND[3:0], as completion has it (R104), so no operand is needed (log 13). -/

namespace Sys2Proof.Machine

/-- NOP (40_command_control.md R108). -/
def execNop (s : State) : Host.Outcome State Fault Refusal := .next (s.complete .ok)

/-- A reserved OP 4..7 (40_command_control.md R109, 30_encoding.md R84). -/
def execIllegalOpLow (_op : BitVec 4) (s : State) : Host.Outcome State Fault Refusal :=
  .next (s.complete .illegalCommand)

/-- A reserved OP 8..15 (40_command_control.md R109, 30_encoding.md R84). -/
def execIllegalOpHigh (_op : BitVec 4) (s : State) : Host.Outcome State Fault Refusal :=
  .next (s.complete .illegalCommand)

/-- A nonzero RSVD (40_command_control.md R109, 30_encoding.md R83). -/
def execIllegalRsvd (_op : BitVec 4) (_rsvd : BitVec 28) (s : State) :
    Host.Outcome State Fault Refusal :=
  .next (s.complete .illegalCommand)

end Sys2Proof.Machine
end

