-- ==== Sys2Proof/Machine/Construction.lean ====
section
/-! DEFINITION. The meaning of CONFIG, the codec's construction (41_construction.md R120 to R129). -/

namespace Sys2Proof.Machine

/-- CONFIG (41_construction.md R120): the length check first (R125), then the duplicate check, then
the staging alphabet becomes the active one. -/
def execConfig (s : State) : Host.Outcome State Fault Refusal :=
  if s.cfgLen ≠ 36 then .next (s.invalidateCodec.complete .alphabetLength)
  else if hasDuplicate s.cfgAlpha.toList then .next (s.invalidateCodec.complete .alphabetDuplicate)
  else .next (s.installAlphabet.complete .ok)

end Sys2Proof.Machine
end

