-- ==== Sys2Proof/Machine/Decoder.lean ====
section
/-! DEFINITION. The decode datapath and the meaning of DECODE (43_decode.md R160 to R178), on the
internal registers of 10_state.md R49. -/

namespace Sys2Proof.Machine

/-- NEG: the input has a byte 0 and it is '-' (43_decode.md R164). -/
def decodeSign (s : State) : Bool :=
  decide (1 ≤ s.decLen.toNat ∧ lc (byteAt s.decText 0) = minusSign)

/-- START: the index of the first digit byte (43_decode.md R160). -/
def decodeOffset (s : State) : Nat := if decodeSign s then 1 else 0

/-- n = L − START, the symbol count, exact (43_decode.md R160, R165). -/
def decodeCount (s : State) : Nat := s.decLen.toNat - decodeOffset s

/-- The registers before the first iteration, for an input of at most 13 symbols
(43_decode.md R160). -/
def decodeStart (s : State) : DecodePath where
  neg := decodeSign s
  start := BitVec.ofNat 1 (decodeOffset s)
  n := BitVec.ofNat 4 (decodeCount s)
  idx := 0
  acc := 0
  bad := false

/-- One iteration (43_decode.md R166, R167): look the symbol up; where it is absent set BAD, else
add digit times weight and go on to the next symbol. -/
def decodeIter (alpha : Vector Byte 36) (text : Vector Byte 16) (p : DecodePath) : DecodePath :=
  match rmap alpha (lc (byteAt text (p.start.toNat + p.idx.toNat))) with
  | none => { p with bad := true }
  | some d =>
    { p with
      acc := p.acc + BitVec.ofNat 68 (d.val * (weight (p.n.toNat - 1 - p.idx.toNat)).toNat)
      idx := p.idx + 1 }

/-- The loop over the symbols from left to right, which stops at the first invalid one
(43_decode.md R166); `k` symbols are left. -/
def decodeLoop (alpha : Vector Byte 36) (text : Vector Byte 16) : Nat → DecodePath → DecodePath
  | 0, p => p
  | k + 1, p =>
    let q := decodeIter alpha text p
    if q.bad then q else decodeLoop alpha text k q

/-- The registers after the loop. -/
def decodeRun (s : State) : DecodePath :=
  decodeLoop s.actAlpha s.decText (decodeCount s) (decodeStart s)

/-- The end of every DECODE: its result registers, then completion; the datapath registers are
unspecified from then on (43_decode.md R169, R170; log 8). -/
def finishDecode (s : State) (x : BitVec 64) (code : StatusCode) : State :=
  ((s.putDecodeResult x).releaseDecodePath).complete code

/-- DECODE (43_decode.md R160), its errors in the order of R174. The overflow test is exact
(R168). -/
def execDecode (s : State) : Host.Outcome State Fault Refusal :=
  if s.cfgValid = false then .next (finishDecode s 0 .notConfigured)
  else if 13 < decodeCount s then .next (finishDecode s 0 .numberTooLarge)
  else
    let p := decodeRun s
    if p.bad then .next (finishDecode s 0 .invalidCharacter)
    else if 2 ^ 63 - 1 < p.acc.toNat then .next (finishDecode s 0 .numberTooLarge)
    else .next (finishDecode s (bits64 (if p.neg then -(p.acc.toNat : Int) else p.acc.toNat)) .ok)

end Sys2Proof.Machine
end

