-- ==== Sys2Proof/Machine/Encoder.lean ====
section
/-! DEFINITION. The encode datapath and the meaning of ENCODE (42_encode.md R140 to R152), on the
internal registers of 10_state.md R48. -/

namespace Sys2Proof.Machine

/-- DBUF after a symbol is prepended (42_encode.md R140, R144). -/
def prependSymbol (b : Byte) (v : Vector Byte 13) : Vector Byte 13 :=
  Vector.ofFn fun i => if i.val = 0 then b else byteAt v (i.val - 1)

/-- The registers before the first iteration (42_encode.md R143): NEG and MAG from the value, DCNT
0. -/
def encodeStart (v : Int) (p : EncodePath) : EncodePath :=
  { p with neg := decide (v < 0), mag := BitVec.ofNat 63 v.natAbs, dcnt := 0 }

/-- One iteration of the digit extraction (42_encode.md R144). -/
def encodeIter (alpha : Vector Byte 36) (p : EncodePath) : EncodePath :=
  { p with
    dbuf := prependSymbol (byteAt alpha (p.mag.toNat % 36)) p.dbuf
    dcnt := p.dcnt + 1
    mag := BitVec.ofNat 63 (p.mag.toNat / 36) }

/-- "repeat ... until MAG == 0" (42_encode.md R140), at most `fuel` times. -/
def encodeLoop (alpha : Vector Byte 36) : Nat → EncodePath → EncodePath
  | 0, p => p
  | fuel + 1, p =>
    let q := encodeIter alpha p
    if q.mag = 0 then q else encodeLoop alpha fuel q

/-- The most iterations any magnitude of 63 bits takes (42_encode.md R144: D(m) ≤ 13; log 14). -/
def maxDigits : Nat := 13

/-- The output string S (42_encode.md R146). -/
def encodeString (p : EncodePath) : List Byte :=
  (if p.neg then [minusSign] else []) ++ p.dbuf.toList.take p.dcnt.toNat

/-- The end of every ENCODE: its result registers, then completion; the datapath registers are
unspecified from then on (42_encode.md R147, R148; log 8). -/
def finishEncode (s : State) (str : List Byte) (code : StatusCode) : State :=
  ((s.putEncodeResult str).releaseEncodePath).complete code

/-- ENCODE (42_encode.md R140). -/
def execEncode (s : State) : Host.Outcome State Fault Refusal :=
  if s.cfgValid = false then .next (finishEncode s [] .notConfigured)
  else if s64 s.valIn = -2 ^ 63 then .next (finishEncode s [] .encodeRange)
  else
    .next (finishEncode s
      (encodeString (encodeLoop s.actAlpha maxDigits (encodeStart (s64 s.valIn) s.encPath))) .ok)

end Sys2Proof.Machine
end

