-- ==== Sys2Proof/Machine/Dispatch.lean ====
section
/-! DEFINITION. The meaning of each command (40_command_control.md R105), one arm per constructor. -/

namespace Sys2Proof.Machine

def exec (i : Instr) (s : State) : Host.Outcome State Fault Refusal :=
  match i with
  | .nop => Sys2Proof.Machine.execNop s
  | .config => Sys2Proof.Machine.execConfig s
  | .encode => Sys2Proof.Machine.execEncode s
  | .decode => Sys2Proof.Machine.execDecode s
  | .illegalOpLow op => Sys2Proof.Machine.execIllegalOpLow op s
  | .illegalOpHigh op => Sys2Proof.Machine.execIllegalOpHigh op s
  | .illegalRsvd op rsvd => Sys2Proof.Machine.execIllegalRsvd op rsvd s

end Sys2Proof.Machine
end

