-- ==== Sys2Proof/Machine/Agents.lean ====
section
/-! DEFINITION. What one turn of an agent does (00_scope.md R10, 40_command_control.md R103,
20_memory.md R70, 70_reset_and_hazards.md R230). -/

namespace Sys2Proof.Machine

/-- The core's turn: its completion step while BUSY = 1, which performs the command in PEND; no step
is enabled while BUSY = 0, and the block stays as it is (40_command_control.md R103, log 4). -/
def coreTurn (s : State) : Host.Outcome State Fault Refusal :=
  if s.busy then exec s.fetch s else .next s

/-- One turn of the total order, on the state that holds the turns after it. -/
def takeTurn (t : Turn) (s : State) : Host.Outcome State Fault Refusal :=
  match t with
  | .hostRead w => .next (s.latchRead w)
  | .hostWrite w d => .next (hostWrite s w d)
  | .core => coreTurn s
  | .reset => .next s.applyReset

/-- The next turn: the first of the schedule; when the schedule is used up it is the core's
(fairness, 70_reset_and_hazards.md R247, log 3). -/
def nextTurn (s : State) : Turn := s.schedule.head?.getD .core

end Sys2Proof.Machine
end

