-- ==== Sys2Proof/Machine/Step.lean ====
section
/-! DEFINITION. One step of the machine: the next turn of the total order of host accesses, core
steps and reset (20_memory.md R70), and how the host's checks place a command word (log 2). -/

namespace Sys2Proof.Machine

/-- One step (20_memory.md R70): the next turn is taken off the schedule and performed. -/
def step (s : State) : Host.Outcome State Fault Refusal := takeTurn (nextTurn s) s.popTurn

/-- The state in which the command word `w` of `nbits` bits has just been issued
(40_command_control.md R101) and the very next step is the core's (log 2). Bits of `w` from `nbits`
on are taken as zero (DESIGN CHOICE, log 23). -/
def State.withFetchWord (s : State) (nbits w : Nat) : State :=
  { s.issue (BitVec.ofNat 32 (w % 2 ^ nbits)) with schedule := [] }

end Sys2Proof.Machine
end

