-- ==== Sys2Proof/Machine/HostSequence.lean ====
section
/-! DEFINITION. The host-sequence notation as turns (30_encoding.md R88) and the expansions of its
pseudo-instructions (R89). A sequence names the host's accesses; where the core's completion falls
among them is a parameter (log 15). -/

namespace Sys2Proof.Machine

/-- `WR <w>, d` (30_encoding.md R88). -/
def wr (w : Nat) (d : Word) : Turn := .hostWrite (BitVec.ofNat 6 w) d

/-- `RD <w>` (30_encoding.md R88). -/
def rd (w : Nat) : Turn := .hostRead (BitVec.ofNat 6 w)

/-- `WAIT` (30_encoding.md R88): `polls` reads of STATUS that still see BUSY = 1, the core's
completion, and the read that sees BUSY = 0. -/
def waitTurns (polls : Nat) : List Turn := List.replicate polls (rd 3) ++ [.core, rd 3]

/-- `ENC v` (30_encoding.md R89). -/
def encSequence (v : Int) (polls : Nat) : List Turn :=
  [wr 4 (loHalf (bits64 v)), wr 5 (hiHalf (bits64 v)), wr 2 (encodeWord .encode)] ++ waitTurns polls

/-- The value a host writes to a length register: the true length, or 2^32−1 where it is larger
(70_reset_and_hazards.md R238, 41_construction.md R121). -/
def lengthWord (str : List Byte) : Word := BitVec.ofNat 32 (min str.length (2 ^ 32 - 1))

/-- `DEC "s"` (30_encoding.md R89): the words that hold bytes of the string, zeros after its end. -/
def decSequence (str : List Byte) (polls : Nat) : List Turn :=
  wr 8 (lengthWord str)
    :: ((List.range ((min str.length 16 + 3) / 4)).map fun k =>
          wr (12 + k) (packWord (bufferOf 16 str) k))
    ++ wr 2 (encodeWord .decode) :: waitTurns polls

/-- `CFG "s"` (30_encoding.md R89). -/
def cfgSequence (str : List Byte) (polls : Nat) : List Turn :=
  wr 10 (lengthWord str)
    :: ((List.range 9).map fun k => wr (20 + k) (packWord (bufferOf 36 str) k))
    ++ wr 2 (encodeWord .config) :: waitTurns polls

/-- `CLR` (30_encoding.md R89). -/
def clrSequence : List Turn := [wr 3 0x0000000A]

end Sys2Proof.Machine
end

