-- ==== Sys2Proof/Safety.lean ====
section
/-! DEFINITION. The terms that claims about the block use: its invariant, the strings and numbers that
its registers hold, read as positional notation (00_scope.md R15), and which turn does what. -/

namespace Sys2Proof.Machine

/-- What every step keeps, and reset has. -/
structure BlockInvariant (s : State) : Prop where
  /-- A valid codec has 36 distinct symbols (10_state.md R30). -/
  distinct : s.cfgValid = true → s.actAlpha.toList.Nodup
  /-- The phases BUSY and COMPLETE exclude each other (40_command_control.md R100). -/
  phase : ¬ (s.busy = true ∧ s.done = true)
  /-- ENC_LEN is 0..14 (10_state.md R37). -/
  length : s.encLen.toNat ≤ 14
  /-- ET holds 0x00 from ENC_LEN on (10_state.md R40). -/
  padding : ∀ j, s.encLen.toNat ≤ j → byteAt s.encText j = 0
  /-- VAL_OUT is never −2^63 (43_decode.md R175). -/
  range : s64 s.valOut ≠ -2 ^ 63

/-- The string that ENC_LEN and ET hold (10_state.md R40). -/
def outputString (s : State) : List Byte := s.encText.toList.take s.encLen.toNat

/-- A magnitude in radix 36 under an alphabet, most significant digit first; the magnitude 0 is one
digit (42_encode.md R144, R145). -/
def digitSymbols (alpha : Vector Byte 36) (m : Nat) : List Byte :=
  if m = 0 then [byteAt alpha 0] else (Nat.digits 36 m).reverse.map (byteAt alpha)

/-- The radix-36 text of a signed value under an alphabet (42_encode.md R146). -/
def encodeText (alpha : Vector Byte 36) (v : Int) : List Byte :=
  (if v < 0 then [0x2D] else []) ++ digitSymbols alpha v.natAbs

/-- The value of `n` digits, the first the most significant: Σ d_i · 36^(n−1−i)
(43_decode.md R167). -/
def digitSum (d : Nat → Nat) (n : Nat) : Nat := ∑ i ∈ Finset.range n, d i * 36 ^ (n - 1 - i)

/-- The digit value of symbol `i` of the decode input, or ABSENT (43_decode.md R166). -/
def inputDigit (s : State) (i : Nat) : Option (Fin 36) :=
  rmap s.actAlpha (lc (byteAt s.decText (decodeOffset s + i)))

/-- The word indices of the busy-protected registers (40_command_control.md R106). -/
def busyProtected (w : HostIndex) : Bool :=
  decide (w.toNat ∈ [2, 4, 5, 8, 10] ∨ (12 ≤ w.toNat ∧ w.toNat ≤ 15)
    ∨ (20 ≤ w.toNat ∧ w.toNat ≤ 28))

/-- The word indices a write to which is ignored: ID, the read-only registers and the reserved
indices (20_memory.md R63). -/
def writeIgnored (w : HostIndex) : Bool :=
  decide (w.toNat ∈ [0, 6, 7, 9, 11] ∨ (16 ≤ w.toNat ∧ w.toNat ≤ 19) ∨ 29 ≤ w.toNat)

/-- A host access, as against a turn of the core or of reset (00_scope.md R10). -/
def Turn.isHost : Turn → Bool
  | .hostRead _ => true
  | .hostWrite _ _ => true
  | .core => false
  | .reset => false

/-- The next step is the completion of the command in PEND (40_command_control.md R103). -/
def completesNext (s : State) : Prop := s.busy = true ∧ nextTurn s = .core

/-- CONFIG accepts what the host has staged (41_construction.md R120). -/
def alphabetAccepted (s : State) : Prop := s.cfgLen = 36 ∧ s.cfgAlpha.toList.Nodup

/-- The registers a command takes its operands from, and PEND (30_encoding.md R86; 20_memory.md
R74), hold the same in both states. -/
def sameOperands (s t : State) : Prop :=
  t.valInLo = s.valInLo ∧ t.valInHi = s.valInHi ∧ t.decLen = s.decLen ∧ t.decText = s.decText
    ∧ t.cfgLen = s.cfgLen ∧ t.cfgAlpha = s.cfgAlpha ∧ t.pend = s.pend

/-- What only a completion (or reset) writes holds the same in both states: VAL_OUT, ENC_LEN, ET,
ALPHA, CFG_VALID, ERR and LAST_OP (40_command_control.md R110, 10_state.md R32, R33). -/
def sameResults (s t : State) : Prop :=
  t.valOutLo = s.valOutLo ∧ t.valOutHi = s.valOutHi ∧ t.encLen = s.encLen ∧ t.encText = s.encText
    ∧ t.actAlpha = s.actAlpha ∧ t.cfgValid = s.cfgValid ∧ t.err = s.err ∧ t.lastOp = s.lastOp

end Sys2Proof.Machine
end

