-- ==== Sys2Proof/Certificates/Slice0/Obligations.lean ====
section
/-! DEFINITION. The statements about the block that are put to the provers. Each docstring names the
rule of the spec; OBLIGATIONS.json says of each whether it formalises a rule or is derived. Where a
next state is written as an update of the state before, PEND stays over a completion: the model's
reading (log 6, DEDUCED), since 10_state.md R47 leaves PEND open while BUSY = 0. -/

open Sys2Proof Sys2Proof.Machine

/-! ### Commands and their words -/

/-- 30_encoding.md R82 to R84: the four legal words are the four commands; OP 4..7 and 8..15 with RSVD
zero, and every word with RSVD nonzero, are illegal commands that keep their fields. -/
def Obligations.CommandWordsDecodeByRsvdThenOp : Prop :=
  decodeWord 0 = .nop ∧ decodeWord 1 = .config ∧ decodeWord 2 = .encode ∧ decodeWord 3 = .decode
    ∧ (∀ w : Word, 4 ≤ w.toNat → w.toNat ≤ 7 →
        decodeWord w = .illegalOpLow (BitVec.ofNat 4 w.toNat))
    ∧ (∀ w : Word, 8 ≤ w.toNat → w.toNat ≤ 15 →
        decodeWord w = .illegalOpHigh (BitVec.ofNat 4 w.toNat))
    ∧ (∀ w : Word, 16 ≤ w.toNat →
        decodeWord w = .illegalRsvd (BitVec.ofNat 4 (w.toNat % 16)) (BitVec.ofNat 28 (w.toNat / 16)))

/-- 30_encoding.md R82, R83 on words written out: each decodes, through its four bytes, to its
command. -/
def Obligations.WrittenWordsDecodeToTheirCommands : Prop :=
  decodeTableWord 32 0x00000000 = some .nop ∧ decodeTableWord 32 0x00000001 = some .config
    ∧ decodeTableWord 32 0x00000002 = some .encode ∧ decodeTableWord 32 0x00000003 = some .decode
    ∧ decodeTableWord 32 0x00000004 = some (.illegalOpLow 4)
    ∧ decodeTableWord 32 0x0000000F = some (.illegalOpHigh 15)
    ∧ decodeTableWord 32 0x00000012 = some (.illegalRsvd 2 1)
    ∧ decodeTableWord 32 0x80000001 = some (.illegalRsvd 1 0x8000000)

/-- 30_encoding.md R80 to R82: decoding the word, or the bytes, of any well-formed command gives the
command, and the bytes after it are left. -/
def Obligations.DecodeInvertsEncode : Prop :=
  ∀ i : Instr, i.wellFormed = true →
    decodeWord (encodeWord i) = i ∧
      ∀ rest : List Byte, decodeBytes (encodeBytes i ++ rest) = .ok (i, rest)

/-- 30_encoding.md R82, 40_command_control.md R101: every word is a well-formed command whose word it
is. -/
def Obligations.EveryWordIsTheWordOfItsCommand : Prop :=
  ∀ w : Word, (decodeWord w).wellFormed = true ∧ encodeWord (decodeWord w) = w

/-! ### Steps -/

/-- 40_command_control.md R103, R105: the core's step, when a command is pending, is the meaning of the
well-formed command that PEND decodes to. It is taken when the core's turn comes, and when no turn is
scheduled (log 3). -/
def Obligations.StepRunsTheDecodedCommand : Prop :=
  ∀ (s : State) (rest : List Turn), s.busy = true →
    (decodeWord s.pend).wellFormed = true
      ∧ (s.schedule = .core :: rest →
          step s = exec (decodeWord s.pend) { s with schedule := rest })
      ∧ (s.schedule = [] → step s = exec (decodeWord s.pend) s)

/-- 40_command_control.md R103, 60_exceptions.md R217: while BUSY = 0 no core step is enabled, and the
block keeps its state. (That a core turn may still be scheduled then is the model's choice, log 4.) -/
def Obligations.IdleCoreTurnLeavesTheBlockUnchanged : Prop :=
  ∀ (s : State) (rest : List Turn), s.busy = false →
    (s.schedule = .core :: rest → step s = .next { s with schedule := rest })
      ∧ (s.schedule = [] → step s = .next s)

/-- 20_memory.md R69, 40_command_control.md R101, R103, 60_exceptions.md R210: no access, command or
reset faults or is refused, in any state. -/
def Obligations.EveryStepAnswersANextState : Prop := ∀ s : State, ∃ t, step s = .next t

/-! ### Host accesses -/

/-- 20_memory.md R62: what a read returns at every word index, and that it changes nothing. -/
def Obligations.HostReadReturnsTheRegisterAndChangesNothing : Prop :=
  ∀ s : State,
    (∀ (w : HostIndex) (rest : List Turn), s.schedule = .hostRead w :: rest →
        step s = .next { s with schedule := rest, readData := hostRead s w })
      ∧ hostRead s 0 = 0x52333601
      ∧ hostRead s 1 = BitVec.ofNat 32 s.ie.toNat
      ∧ hostRead s 2 = 0
      ∧ hostRead s 3 = BitVec.ofNat 32 (s.busy.toNat + 2 * s.done.toNat + 4 * s.cfgValid.toNat
          + 8 * s.ovr.toNat + 256 * s.err.bits.toNat + 65536 * s.lastOp.toNat)
      ∧ hostRead s 4 = s.valInLo ∧ hostRead s 5 = s.valInHi
      ∧ hostRead s 6 = s.valOutLo ∧ hostRead s 7 = s.valOutHi
      ∧ hostRead s 8 = s.decLen
      ∧ hostRead s 9 = BitVec.ofNat 32 s.encLen.toNat
      ∧ hostRead s 10 = s.cfgLen
      ∧ (∀ j : Fin 16,
          (hostRead s (BitVec.ofNat 6 (12 + j.val / 4))).extractLsb' (8 * (j.val % 4)) 8
            = s.decText[j])
      ∧ (∀ j : Fin 16,
          (hostRead s (BitVec.ofNat 6 (16 + j.val / 4))).extractLsb' (8 * (j.val % 4)) 8
            = s.encText[j])
      ∧ (∀ j : Fin 36,
          (hostRead s (BitVec.ofNat 6 (20 + j.val / 4))).extractLsb' (8 * (j.val % 4)) 8
            = s.cfgAlpha[j])
      ∧ (∀ j : Fin 36,
          (hostRead s (BitVec.ofNat 6 (32 + j.val / 4))).extractLsb' (8 * (j.val % 4)) 8
            = s.actAlpha[j])
      ∧ (∀ w : HostIndex, w.toNat = 11 ∨ (29 ≤ w.toNat ∧ w.toNat ≤ 31) ∨ 41 ≤ w.toNat →
          hostRead s w = 0)

/-- 20_memory.md R63, R69: a write to ID, to a read-only register or to a reserved index is ignored. -/
def Obligations.WriteToReadOnlyOrReservedWordIsIgnored : Prop :=
  ∀ (s : State) (w : HostIndex) (d : Word) (rest : List Turn),
    s.schedule = .hostWrite w d :: rest → writeIgnored w = true →
      step s = .next { s with schedule := rest }

/-- 10_state.md R25, 40_command_control.md R107: a write to CTRL sets IE to bit 0, busy or not; the
reserved bits are ignored and read 0. -/
def Obligations.CtrlWriteSetsInterruptEnable : Prop :=
  ∀ (s : State) (d : Word) (rest : List Turn), s.schedule = .hostWrite 1 d :: rest →
    step s = .next { s with schedule := rest, ie := d.getLsbD 0 }
      ∧ ∀ t, step s = .next t → hostRead t 1 = d &&& 1

/-- 10_state.md R27: a write to STATUS clears DONE where bit 1 is 1 and OVR where bit 3 is 1, and does
nothing else. -/
def Obligations.StatusWriteClearsDoneAndOverrun : Prop :=
  ∀ (s : State) (d : Word) (rest : List Turn), s.schedule = .hostWrite 3 d :: rest →
    step s = .next { s with
      schedule := rest
      done := if d.getLsbD 1 = true then false else s.done
      ovr := if d.getLsbD 3 = true then false else s.ovr }

/-- 40_command_control.md R101: a write to CMD while idle issues the word, whatever it is. Nothing but
PEND, BUSY and DONE changes, and IRQ drops. -/
def Obligations.CmdWriteWhileIdleIssues : Prop :=
  ∀ (s : State) (d : Word) (rest : List Turn), s.schedule = .hostWrite 2 d :: rest →
    s.busy = false →
      step s = .next { s with schedule := rest, pend := d, busy := true, done := false }
        ∧ ∀ t, step s = .next t → t.irq = false

/-- 40_command_control.md R102, R106: while busy, a write to a busy-protected register, CMD among them,
is dropped and sets OVR; every register keeps its value. -/
def Obligations.ProtectedWriteWhileBusyIsDropped : Prop :=
  ∀ (s : State) (w : HostIndex) (d : Word) (rest : List Turn),
    s.schedule = .hostWrite w d :: rest → busyProtected w = true → s.busy = true →
      step s = .next { s with schedule := rest, ovr := true }

/-- 20_memory.md R63: while idle, a write to a busy-protected operand register is seen by a read of
that word and by no read of another word, and leaves everything but the operand registers as it
was. -/
def Obligations.OperandWriteWhileIdleIsReadBack : Prop :=
  ∀ (s : State) (w : HostIndex) (d : Word) (rest : List Turn),
    s.schedule = .hostWrite w d :: rest → busyProtected w = true → w ≠ 2 → s.busy = false →
      ∃ t, step s = .next t ∧ hostRead t w = d ∧ (∀ w', w' ≠ w → hostRead t w' = hostRead s w')
        ∧ t = { s with
            schedule := rest
            valInLo := t.valInLo
            valInHi := t.valInHi
            decLen := t.decLen
            cfgLen := t.cfgLen
            decText := t.decText
            cfgAlpha := t.cfgAlpha }

/-- 10_state.md R31: OVR is set by a dropped write, stays until a write to STATUS with bit 3 = 1 or
reset, and raises no interrupt. -/
def Obligations.OverrunIsSetByDropsAndSticks : Prop :=
  (∀ s t : State, step s = .next t →
    (t.ovr = true ↔
      (∃ w d, nextTurn s = .hostWrite w d ∧ busyProtected w = true ∧ s.busy = true)
        ∨ (s.ovr = true ∧ nextTurn s ≠ .reset
            ∧ ∀ d, nextTurn s = .hostWrite 3 d → d.getLsbD 3 = false)))
    ∧ ∀ (s : State) (b : Bool), ({ s with ovr := b } : State).irq = s.irq

/-- 10_state.md R46, 60_exceptions.md R207: IRQ is bit 0 of CTRL and bit 1 of STATUS; every
completion, whatever its code, raises it to IE. -/
def Obligations.InterruptIsEnableAndDone : Prop :=
  (∀ s : State, s.irq = ((hostRead s 1).getLsbD 0 && (hostRead s 3).getLsbD 1))
    ∧ ∀ s : State, completesNext s → ∃ t, step s = .next t ∧ t.done = true ∧ t.irq = s.ie

/-! ### Reset -/

/-- 70_reset_and_hazards.md R230: the reset step sets every register the spec gives a reset value,
whatever the state. That the turns to come stay is the model's choice (log 10). -/
def Obligations.ResetStepSetsEveryResetValue : Prop :=
  ∀ (s : State) (rest : List Turn), s.schedule = .reset :: rest →
    ∃ t, step s = .next t ∧ hostRead t 1 = 0 ∧ hostRead t 3 = 0x00000004
      ∧ t.valIn = 0 ∧ t.valOut = 0 ∧ t.decLen = 0 ∧ hostRead t 9 = 0 ∧ t.cfgLen = 36
      ∧ (∀ j : Fin 16, t.decText[j] = 0 ∧ t.encText[j] = 0)
      ∧ t.cfgAlpha = defaultAlphabet ∧ t.actAlpha = defaultAlphabet
      ∧ (∀ j : Fin 10, t.actAlpha[j] = BitVec.ofNat 8 (0x30 + j.val))
      ∧ (∀ j : Fin 26, t.actAlpha[10 + j.val] = BitVec.ofNat 8 (0x61 + j.val))
      ∧ t.irq = false ∧ t.schedule = rest

/-- 10_state.md R52: the machine starts in the state the spec lists. -/
def Obligations.ResetStateHoldsTheListedValues : Prop :=
  hostRead State.reset 0 = 0x52333601 ∧ State.reset.ie = false
    ∧ hostRead State.reset 3 = 0x00000004
    ∧ State.reset.valIn = 0 ∧ State.reset.valOut = 0 ∧ State.reset.decLen = 0
    ∧ State.reset.encLen = 0 ∧ State.reset.cfgLen = 36
    ∧ State.reset.decText = Vector.replicate 16 0 ∧ State.reset.encText = Vector.replicate 16 0
    ∧ State.reset.cfgAlpha = defaultAlphabet ∧ State.reset.actAlpha = defaultAlphabet
    ∧ hostRead State.reset 32 = 0x33323130 ∧ hostRead State.reset 33 = 0x37363534
    ∧ hostRead State.reset 34 = 0x62613938 ∧ hostRead State.reset 35 = 0x66656463
    ∧ hostRead State.reset 36 = 0x6A696867 ∧ hostRead State.reset 37 = 0x6E6D6C6B
    ∧ hostRead State.reset 38 = 0x7271706F ∧ hostRead State.reset 39 = 0x76757473
    ∧ hostRead State.reset 40 = 0x7A797877
    ∧ (∀ k, k ≤ 12 → (weight k).toNat = 36 ^ k)
    ∧ State.reset.irq = false

/-- 70_reset_and_hazards.md R231: reset abandons a pending command: the core's turn after it completes
nothing. That such a turn exists while BUSY = 0, and that the turns to come stay over a reset, are the
model's choices (log 4, log 10). -/
def Obligations.ResetAbandonsThePendingCommand : Prop :=
  ∀ (s : State) (rest : List Turn), s.busy = true → s.schedule = .reset :: .core :: rest →
    ∃ t, Sys2Proof.core.run 2 s = .next t ∧ t.busy = false ∧ t.done = false ∧ t.irq = false
      ∧ t.valOut = 0 ∧ t.encLen = 0 ∧ t.encText = Vector.replicate 16 0
      ∧ t.actAlpha = defaultAlphabet ∧ t.schedule = rest

/-! ### Completion, NOP and the illegal commands -/

/-- 40_command_control.md R104: every command completes, with BUSY 0, DONE 1 and LAST_OP from PEND, and
no command changes an operand register, CTRL, OVR, PEND or the turns to come. That PEND stays is the
model's reading (log 6), since 10_state.md R47 leaves it open while BUSY = 0. -/
def Obligations.EveryCommandCompletesAndKeepsItsOperands : Prop :=
  ∀ (i : Instr) (s : State), ∃ t, exec i s = .next t
    ∧ t.busy = false ∧ t.done = true ∧ t.lastOp.toNat = s.pend.toNat % 16
    ∧ sameOperands s t ∧ t.ie = s.ie ∧ t.ovr = s.ovr ∧ t.schedule = s.schedule
    ∧ t.readData = s.readData

/-- 40_command_control.md R108: NOP writes BUSY, DONE, ERR = 0 and LAST_OP = 0 and no other state. -/
def Obligations.NopCompletesWithOk : Prop :=
  ∀ s : State, s.pend = 0 →
    exec .nop s = .next { s with err := .ok, lastOp := 0, busy := false, done := true }

/-- 40_command_control.md R109: an illegal word completes with ILLEGAL_COMMAND (7), LAST_OP its OP field,
and changes nothing else. -/
def Obligations.IllegalWordsCompleteWithIllegalCommand : Prop :=
  (∀ (op : BitVec 4) (s : State),
    exec (.illegalOpLow op) s = .next { s with
      err := .illegalCommand, lastOp := s.pend.extractLsb' 0 4, busy := false, done := true })
    ∧ (∀ (op : BitVec 4) (s : State),
      exec (.illegalOpHigh op) s = .next { s with
        err := .illegalCommand, lastOp := s.pend.extractLsb' 0 4, busy := false, done := true })
    ∧ (∀ (op : BitVec 4) (rsvd : BitVec 28) (s : State),
      exec (.illegalRsvd op rsvd) s = .next { s with
        err := .illegalCommand, lastOp := s.pend.extractLsb' 0 4, busy := false, done := true })
    ∧ StatusCode.illegalCommand.bits = 7

/-- 40_command_control.md R109 on the step: whatever word above 3 is pending, the core's turn completes
it with ERR 7, LAST_OP its low four bits, and changes no result, alphabet or CFG_VALID. -/
def Obligations.PendingIllegalWordCompletesWithCode7 : Prop :=
  ∀ s : State, completesNext s → 3 < s.pend.toNat →
    step s = .next { s.popTurn with
      err := .illegalCommand
      lastOp := BitVec.ofNat 4 (s.pend.toNat % 16)
      busy := false
      done := true }

/-- 60_exceptions.md R200, R206: the numbers of the codes, and that STATUS.ERR never reads as 8..15. -/
def Obligations.StatusNeverReportsAReservedCode : Prop :=
  (StatusCode.ok.bits = 0 ∧ StatusCode.numberTooLarge.bits = 1 ∧ StatusCode.invalidCharacter.bits = 2
      ∧ StatusCode.alphabetLength.bits = 3 ∧ StatusCode.alphabetDuplicate.bits = 4
      ∧ StatusCode.notConfigured.bits = 5 ∧ StatusCode.encodeRange.bits = 6
      ∧ StatusCode.illegalCommand.bits = 7)
    ∧ ∀ s : State, (hostRead s 3).extractLsb' 8 4 = s.err.bits
        ∧ ((hostRead s 3).extractLsb' 8 4).toNat ≤ 7

/-! ### CONFIG -/

/-- 41_construction.md R121, R125: CFG_LEN ≠ 36 fails with ALPHABET_LENGTH, whatever CFGA holds; ALPHA
stays and CFG_VALID becomes 0. -/
def Obligations.ConfigRejectsAWrongLength : Prop :=
  ∀ s : State, s.cfgLen.toNat ≠ 36 →
    exec .config s = .next { s with
      cfgValid := false, err := .alphabetLength, lastOp := s.pend.extractLsb' 0 4
      busy := false, done := true }

/-- 41_construction.md R122, R124: two equal bytes in CFGA, compared without case normalisation, fail
with ALPHABET_DUPLICATE. -/
def Obligations.ConfigRejectsARepeatedSymbol : Prop :=
  ∀ s : State, s.cfgLen.toNat = 36 →
    (∃ i j : Fin 36, i ≠ j ∧ s.cfgAlpha[i] = s.cfgAlpha[j]) →
      exec .config s = .next { s with
        cfgValid := false, err := .alphabetDuplicate, lastOp := s.pend.extractLsb' 0 4
        busy := false, done := true }

/-- 41_construction.md R123, R127: 36 distinct bytes, whatever they are, become the active alphabet. -/
def Obligations.ConfigInstallsDistinctSymbols : Prop :=
  ∀ s : State, s.cfgLen.toNat = 36 →
    (∀ i j : Fin 36, i ≠ j → s.cfgAlpha[i] ≠ s.cfgAlpha[j]) →
      exec .config s = .next { s with
        actAlpha := s.cfgAlpha, cfgValid := true, err := .ok
        lastOp := s.pend.extractLsb' 0 4, busy := false, done := true }

/-- 10_state.md R30, R42, R53: only a successful CONFIG and reset write ALPHA, and only CONFIG and reset
write CFG_VALID. -/
def Obligations.CodecChangesOnlyByConfigAndReset : Prop :=
  ∀ s t : State, step s = .next t →
    (nextTurn s = .reset → t.actAlpha = defaultAlphabet ∧ t.cfgValid = true)
      ∧ (completesNext s → decodeWord s.pend = .config → alphabetAccepted s →
          t.actAlpha = s.cfgAlpha ∧ t.cfgValid = true)
      ∧ (completesNext s → decodeWord s.pend = .config → ¬ alphabetAccepted s →
          t.actAlpha = s.actAlpha ∧ t.cfgValid = false)
      ∧ (nextTurn s ≠ .reset → ¬ (completesNext s ∧ decodeWord s.pend = .config) →
          t.actAlpha = s.actAlpha ∧ t.cfgValid = s.cfgValid)

/-! ### ENCODE -/

/-- 42_encode.md R142, R148: without a valid codec ENCODE completes with NOT_CONFIGURED, ENC_LEN 0 and ET
zero; nothing else changes but the datapath's unobservable registers. -/
def Obligations.EncodeWithoutCodecReportsNotConfigured : Prop :=
  ∀ s : State, s.cfgValid = false →
    ∃ p n, exec .encode s = .next { s with
      encLen := 0, encText := Vector.replicate 16 0, err := .notConfigured
      lastOp := s.pend.extractLsb' 0 4, busy := false, done := true, encPath := p, draws := n }

/-- 42_encode.md R143, R148: −2^63 completes with ENCODE_RANGE, ENC_LEN 0 and ET zero. -/
def Obligations.EncodeOfTheMinimumReportsRange : Prop :=
  ∀ s : State, s.cfgValid = true → s.valInHi = 0x80000000 → s.valInLo = 0 →
    ∃ p n, exec .encode s = .next { s with
      encLen := 0, encText := Vector.replicate 16 0, err := .encodeRange
      lastOp := s.pend.extractLsb' 0 4, busy := false, done := true, encPath := p, draws := n }

/-- 42_encode.md R144 to R147: every other value is written in radix 36 under ALPHA, as positional
notation has it, with '-' before a negative one; nothing else changes but the datapath's unobservable
registers. -/
def Obligations.EncodeWritesTheRadix36Text : Prop :=
  ∀ s : State, s.cfgValid = true → s.valIn.toInt ≠ -2 ^ 63 →
    ∃ et p n, exec .encode s = .next { s with
        encLen := BitVec.ofNat 5 (encodeText s.actAlpha s.valIn.toInt).length
        encText := et, err := .ok, lastOp := s.pend.extractLsb' 0 4, busy := false, done := true
        encPath := p, draws := n }
      ∧ (∀ j : Fin 16, et[j] = ((encodeText s.actAlpha s.valIn.toInt)[j.val]?).getD 0)
      ∧ 1 ≤ (encodeText s.actAlpha s.valIn.toInt).length
      ∧ (encodeText s.actAlpha s.valIn.toInt).length ≤ 14

/-- 42_encode.md R150: ENCODE(−n) is '-' followed by ENCODE(n), for n in 1..2^63−1. -/
def Obligations.EncodeOfANegativePrependsTheSign : Prop :=
  ∀ (s s' : State) (n : Nat), s.cfgValid = true → s'.cfgValid = true → s'.actAlpha = s.actAlpha →
    1 ≤ n → n ≤ 2 ^ 63 - 1 → s.valIn.toInt = -(n : Int) → s'.valIn.toInt = n →
      ∃ t t', exec .encode s = .next t ∧ exec .encode s' = .next t'
        ∧ outputString t = 0x2D :: outputString t'

/-- 42_encode.md R149: the length of the output, by the value; ET[14] and ET[15] are always 0x00. -/
def Obligations.EncodeLengthFollowsTheValue : Prop :=
  ∀ s : State, s.cfgValid = true → s.valIn.toInt ≠ -2 ^ 63 →
    ∃ t, exec .encode s = .next t
      ∧ (0 ≤ s.valIn.toInt → s.valIn.toInt ≤ 35 → t.encLen = 1)
      ∧ (-35 ≤ s.valIn.toInt → s.valIn.toInt ≤ -1 → t.encLen = 2)
      ∧ (36 ^ 12 ≤ s.valIn.toInt → t.encLen = 13)
      ∧ (s.valIn.toInt ≤ -36 ^ 12 → t.encLen = 14)
      ∧ t.encLen.toNat ≤ 14 ∧ t.encText[14] = 0 ∧ t.encText[15] = 0

/-- 42_encode.md R151: the first digit of a nonzero value is ALPHA[d] with d ≥ 1. -/
def Obligations.EncodeNeverLeadsWithTheZeroDigit : Prop :=
  ∀ s : State, s.cfgValid = true → s.valIn.toInt ≠ -2 ^ 63 → s.valIn.toInt ≠ 0 →
    ∃ t, ∃ d : Fin 36, exec .encode s = .next t ∧ 1 ≤ d.val
      ∧ (outputString t)[if s.valIn.toInt < 0 then 1 else 0]? = some s.actAlpha[d]

/-- 42_encode.md R151: under one alphabet of distinct symbols with '-' not in ALPHA[1..35], different
values give different strings. -/
def Obligations.EncodeIsInjectiveWithoutMinusDigits : Prop :=
  ∀ s s' t t' : State, s.cfgValid = true → s'.cfgValid = true → BlockInvariant s →
    s'.actAlpha = s.actAlpha → (∀ d : Fin 36, 1 ≤ d.val → s.actAlpha[d] ≠ 0x2D) →
    s.valIn.toInt ≠ -2 ^ 63 → s'.valIn.toInt ≠ -2 ^ 63 →
    exec .encode s = .next t → exec .encode s' = .next t' → outputString t = outputString t' →
      s.valIn = s'.valIn

/-! ### DECODE -/

/-- 43_decode.md R163: without a valid codec DECODE completes with NOT_CONFIGURED and VAL_OUT 0. -/
def Obligations.DecodeWithoutCodecReportsNotConfigured : Prop :=
  ∀ s : State, s.cfgValid = false →
    ∃ p n, exec .decode s = .next { s with
      valOutLo := 0, valOutHi := 0, err := .notConfigured
      lastOp := s.pend.extractLsb' 0 4, busy := false, done := true, decPath := p, draws := n }

/-- 43_decode.md R164: the input has a sign exactly when it is not empty and its byte 0 is '-'; the symbol
count is the length less the sign, and the digits begin after it. -/
def Obligations.DecodeSignIsALeadingMinus : Prop :=
  ∀ s : State,
    (decodeSign s = true ↔ 1 ≤ s.decLen.toNat ∧ s.decText[0] = 0x2D)
      ∧ decodeOffset s + decodeCount s = s.decLen.toNat
      ∧ (decodeSign s = true → decodeOffset s = 1) ∧ (decodeSign s = false → decodeOffset s = 0)

/-- 43_decode.md R164, R165: more than 13 symbols after a leading '-' complete with NUMBER_TOO_LARGE,
whatever they are; so does every L ≥ 15, and L = 14 without a sign. -/
def Obligations.DecodeRejectsMoreThan13Symbols : Prop :=
  ∀ s : State, s.cfgValid = true →
    (15 ≤ s.decLen.toNat ∨ (s.decLen.toNat = 14 ∧ s.decText[0] ≠ 0x2D)) →
      ∃ p n, exec .decode s = .next { s with
        valOutLo := 0, valOutHi := 0, err := .numberTooLarge
        lastOp := s.pend.extractLsb' 0 4, busy := false, done := true, decPath := p, draws := n }

/-- 43_decode.md R166, R174: with at most 13 symbols, one that is not in ALPHA after lc gives
INVALID_CHARACTER, even where the valid symbols already exceed the range. -/
def Obligations.DecodeReportsAnInvalidSymbol : Prop :=
  ∀ s : State, s.cfgValid = true → decodeCount s ≤ 13 →
    (∃ i, i < decodeCount s ∧
      ∀ d : Fin 36, s.actAlpha[d] ≠ lc (byteAt s.decText (decodeOffset s + i))) →
      ∃ p n, exec .decode s = .next { s with
        valOutLo := 0, valOutHi := 0, err := .invalidCharacter
        lastOp := s.pend.extractLsb' 0 4, busy := false, done := true, decPath := p, draws := n }

/-- 43_decode.md R167, R168: with at most 13 symbols, all valid, a value Σ d_i · 36^(n−1−i) above 2^63−1
gives NUMBER_TOO_LARGE; the test is exact. -/
def Obligations.DecodeReportsAnExactOverflow : Prop :=
  ∀ (s : State) (d : Nat → Fin 36), s.cfgValid = true → decodeCount s ≤ 13 →
    (∀ i, i < decodeCount s → inputDigit s i = some (d i)) →
    2 ^ 63 - 1 < digitSum (fun i => (d i).val) (decodeCount s) →
      ∃ p n, exec .decode s = .next { s with
        valOutLo := 0, valOutHi := 0, err := .numberTooLarge
        lastOp := s.pend.extractLsb' 0 4, busy := false, done := true, decPath := p, draws := n }

/-- 43_decode.md R167, R169: with at most 13 symbols, all valid, and a value x of at most 2^63−1, VAL_OUT
is x, or −x after a leading '-'; nothing else changes but the datapath's unobservable registers. -/
def Obligations.DecodeReturnsTheSignedValue : Prop :=
  ∀ (s : State) (d : Nat → Fin 36), s.cfgValid = true → decodeCount s ≤ 13 →
    (∀ i, i < decodeCount s → inputDigit s i = some (d i)) →
    digitSum (fun i => (d i).val) (decodeCount s) ≤ 2 ^ 63 - 1 →
      ∃ lo hi p n, exec .decode s = .next { s with
          valOutLo := lo, valOutHi := hi, err := .ok
          lastOp := s.pend.extractLsb' 0 4, busy := false, done := true, decPath := p, draws := n }
        ∧ (hi ++ lo : BitVec 64).toInt =
            (if decodeSign s then -(digitSum (fun i => (d i).val) (decodeCount s) : Int)
              else (digitSum (fun i => (d i).val) (decodeCount s) : Int))

/-- 43_decode.md R172: the empty input and the input "-" decode to 0 with OK. -/
def Obligations.DecodeOfNoSymbolsIsZero : Prop :=
  ∀ s : State, s.cfgValid = true →
    (s.decLen = 0 ∨ (s.decLen = 1 ∧ s.decText[0] = 0x2D)) →
      ∃ p n, exec .decode s = .next { s with
        valOutLo := 0, valOutHi := 0, err := .ok
        lastOp := s.pend.extractLsb' 0 4, busy := false, done := true, decPath := p, draws := n }

/-- 43_decode.md R171: no byte DT[j] with j ≥ L, nor DT[14] or DT[15], changes what DECODE does. -/
def Obligations.DecodeReadsOnlyTheBytesOfItsInput : Prop :=
  ∀ (s t : State) (text : Vector Byte 16),
    (∀ j : Fin 16, j.val < 14 → j.val < s.decLen.toNat → text[j] = s.decText[j]) →
      exec .decode s = .next t → exec .decode { s with decText := text } = .next { t with decText := text }

/-- 43_decode.md R162, R178: inputs that differ only in the case of ASCII letters decode alike. -/
def Obligations.DecodeIgnoresAsciiCase : Prop :=
  ∀ (s t : State) (text : Vector Byte 16),
    (∀ j : Fin 16, lc text[j] = lc s.decText[j]) →
      exec .decode s = .next t → exec .decode { s with decText := text } = .next { t with decText := text }

/-- 43_decode.md R175: no DECODE leaves a value outside [−(2^63−1), 2^63−1] in VAL_OUT. -/
def Obligations.DecodeResultIsInTheSymmetricRange : Prop :=
  ∀ s : State, ∃ t, exec .decode s = .next t
    ∧ -(2 ^ 63 - 1) ≤ t.valOut.toInt ∧ t.valOut.toInt ≤ 2 ^ 63 - 1

/-- 43_decode.md R176: with a valid codec whose alphabet holds no uppercase letter and no '-' at 1..35,
an ENCODE of v ≠ −2^63, then DEC_LEN := ENC_LEN and DT := ET, then a DECODE, whatever else changed
between the two, gives ERR = 0 and VAL_OUT = v. -/
def Obligations.DecodeInvertsEncodeOnValues : Prop :=
  ∀ s t u : State, BlockInvariant s → s.cfgValid = true →
    (∀ d : Fin 36, ¬ (0x41 ≤ (s.actAlpha[d]).toNat ∧ (s.actAlpha[d]).toNat ≤ 0x5A)) →
    (∀ d : Fin 36, 1 ≤ d.val → s.actAlpha[d] ≠ 0x2D) →
    s.valIn.toInt ≠ -2 ^ 63 → exec .encode s = .next t →
    u.decLen.toNat = t.encLen.toNat → u.decText = t.encText →
    u.actAlpha = t.actAlpha → u.cfgValid = t.cfgValid →
      ∃ v, exec .decode u = .next v ∧ v.err = .ok ∧ v.valOut = s.valIn

/-! ### The tables -/

/-- 10_state.md R44: entry k of the weight ROM is 36^k, for k in 0..12, and below 2^63. -/
def Obligations.WeightRomHoldsThePowersOf36 : Prop :=
  (∀ k, k ≤ 12 → (weight k).toNat = 36 ^ k) ∧ 2 ^ 63 - 1 < 36 ^ 13

/-- 10_state.md R43: the reverse map gives a position that holds the byte, ABSENT exactly where none
does, and on distinct symbols it inverts the alphabet. -/
def Obligations.ReverseMapInvertsTheAlphabet : Prop :=
  ∀ (alpha : Vector Byte 36) (c : Byte),
    (∀ i, rmap alpha c = some i → alpha[i] = c)
      ∧ (rmap alpha c = none ↔ ∀ i : Fin 36, alpha[i] ≠ c)
      ∧ (alpha.toList.Nodup → ∀ i : Fin 36, alpha[i] = c → rmap alpha c = some i)

/-- 43_decode.md R162: lc adds 0x20 to 'A'..'Z' and leaves every other byte. -/
def Obligations.LowerCasingIsAsciiOnly : Prop :=
  ∀ b : Byte,
    (0x41 ≤ b.toNat ∧ b.toNat ≤ 0x5A → (lc b).toNat = b.toNat + 0x20)
      ∧ (¬ (0x41 ≤ b.toNat ∧ b.toNat ≤ 0x5A) → lc b = b)

/-! ### The protocol over several steps -/

/-- 20_memory.md R74: from issue to completion no step but reset changes an operand register or PEND, and
no step but the completion (and reset) changes ALPHA or CFG_VALID. That the completion itself leaves
PEND is the model's reading (log 6), since 10_state.md R47 leaves it open while BUSY = 0. -/
def Obligations.OperandsAreFrozenWhileBusy : Prop :=
  ∀ s t : State, s.busy = true → nextTurn s ≠ .reset → step s = .next t →
    sameOperands s t
      ∧ (nextTurn s ≠ .core → t.actAlpha = s.actAlpha ∧ t.cfgValid = s.cfgValid ∧ t.busy = true)

/-- 40_command_control.md R110: results, ALPHA, CFG_VALID, ERR and LAST_OP change only in a completion
step or by reset. -/
def Obligations.ResultsChangeOnlyAtCompletion : Prop :=
  ∀ s t : State, step s = .next t → nextTurn s ≠ .reset → ¬ completesNext s → sameResults s t

/-- 10_state.md R50: the internal datapath registers decide nothing: from states that differ only in
them, every command does the same. -/
def Obligations.DatapathRegistersAreUnobservable : Prop :=
  ∀ (i : Instr) (s t : State) (p : EncodePath) (q : DecodePath), exec i s = .next t →
    ∃ p' q', exec i { s with encPath := p, decPath := q }
      = .next { t with encPath := p', decPath := q' }

/-- 60_exceptions.md R209: of a completion and a write-1-to-clear of DONE the later wins. -/
def Obligations.LaterOfCompletionAndClearWins : Prop :=
  ∀ (s : State) (rest : List Turn), s.busy = true →
    (s.schedule = .core :: .hostWrite 3 2 :: rest →
        ∃ t, Sys2Proof.core.run 2 s = .next t ∧ t.busy = false ∧ t.done = false)
      ∧ (s.schedule = .hostWrite 3 2 :: .core :: rest →
        ∃ t, Sys2Proof.core.run 2 s = .next t ∧ t.busy = false ∧ t.done = true)

/-- 70_reset_and_hazards.md R246: what a command does is the same however many host accesses, of whatever
kind, fall between its issue and its completion; they can change only CTRL.IE, STATUS.OVR and what
the host last read. -/
def Obligations.ResultsDoNotDependOnTheLatency : Prop :=
  ∀ (s t u : State) (accesses rest : List Turn), s.busy = true →
    (∀ a ∈ accesses, a.isHost = true) →
    Sys2Proof.core.run (accesses.length + 1) { s with schedule := accesses ++ .core :: rest } = .next t →
    Sys2Proof.core.run 1 { s with schedule := .core :: rest } = .next u →
      t = { u with ie := t.ie, ovr := t.ovr, readData := t.readData }

/-- 70_reset_and_hazards.md R247, 40_command_control.md R103: an accepted command is no longer pending
after at most one step more than there are turns scheduled. -/
def Obligations.EveryAcceptedCommandEndsInBoundedSteps : Prop :=
  ∀ s : State, s.busy = true →
    ∃ k t, k ≤ s.schedule.length + 1 ∧ Sys2Proof.core.run k s = .next t ∧ t.busy = false

/-- 10_state.md R30, R37, R40, 40_command_control.md R100, 43_decode.md R175: every step keeps the
block's invariant. -/
def Obligations.EveryStepKeepsTheInvariant : Prop :=
  ∀ s t : State, BlockInvariant s → step s = .next t → BlockInvariant t

/-- 10_state.md R52: the state after reset has the block's invariant. -/
def Obligations.ResetHasTheInvariant : Prop := BlockInvariant State.reset

/-! ### The pseudo-instructions -/

/-- 30_encoding.md R89, R90: `ENC v` from an idle block with a valid codec, with any number of polls
before the completion, ends idle with the radix-36 text of v in ENC_LEN and ET and ERR = 0. The turns
that the sequence stands for, WAIT's among them, are the model's choice (log 15). -/
def Obligations.EncSequenceEncodesItsValue : Prop :=
  ∀ (s : State) (v : Int) (polls : Nat) (rest : List Turn), s.busy = false → s.cfgValid = true →
    -2 ^ 63 < v → v < 2 ^ 63 → s.schedule = encSequence v polls ++ rest →
      ∃ t, Sys2Proof.core.run (encSequence v polls).length s = .next t ∧ t.schedule = rest
        ∧ t.busy = false ∧ t.err = .ok ∧ outputString t = encodeText s.actAlpha v

/-- 30_encoding.md R89, R90: `DEC "s"` from an idle block ends idle with the outcome that DECODE gives on
the string, whatever DEC_LEN and DT held before. The turns that the sequence stands for, its empty
string and saturated length among them, are the model's choice and reading (log 15). -/
def Obligations.DecSequenceDecodesItsString : Prop :=
  ∀ (s u : State) (str : List Byte) (polls : Nat) (rest : List Turn), s.busy = false →
    s.schedule = decSequence str polls ++ rest →
    exec .decode { s with decLen := lengthWord str, decText := bufferOf 16 str } = .next u →
      ∃ t, Sys2Proof.core.run (decSequence str polls).length s = .next t ∧ t.schedule = rest
        ∧ t.busy = false ∧ t.err = u.err ∧ t.valOut = u.valOut

/-- 30_encoding.md R89, R90: `CFG "s"` from an idle block ends idle; a string of 36 distinct bytes is
then the active alphabet with ERR = 0, and any other string of at most 36 bytes leaves CFG_VALID 0.
The turns that the sequence stands for, WAIT's among them, are the model's choice (log 15). -/
def Obligations.CfgSequenceConstructsTheCodec : Prop :=
  ∀ (s : State) (str : List Byte) (polls : Nat) (rest : List Turn), s.busy = false →
    str.length ≤ 36 → s.schedule = cfgSequence str polls ++ rest →
      ∃ t, Sys2Proof.core.run (cfgSequence str polls).length s = .next t ∧ t.schedule = rest
        ∧ t.busy = false
        ∧ (str.length = 36 ∧ str.Nodup →
            t.err = .ok ∧ t.cfgValid = true ∧ t.actAlpha.toList = str)
        ∧ (¬ (str.length = 36 ∧ str.Nodup) →
            t.err ≠ .ok ∧ t.cfgValid = false ∧ t.actAlpha = s.actAlpha)
end

