-- ==== Sys2Proof/Laws/Bits.lean ====
section
/-! SUPPORT. The fields and bytes of a command word: what the encoder writes the decoder's fields
read, and a word and its four bytes give each other. -/

namespace Sys2Proof

@[simp] theorem opField_encodeWord (i : Instr) : opField (encodeWord i) = i.op := by
  simp only [opField, encodeWord]
  ext j hj
  simp only [BitVec.getElem_extractLsb', BitVec.getLsbD_append]
  simp [hj]

@[simp] theorem rsvdField_encodeWord (i : Instr) : rsvdField (encodeWord i) = i.rsvd := by
  simp only [rsvdField, encodeWord]
  ext j hj
  simp only [BitVec.getElem_extractLsb', BitVec.getLsbD_append]
  simp [BitVec.getLsbD_eq_getElem hj]

theorem opField_toNat (w : Word) : (opField w).toNat = w.toNat % 16 := by
  simp [opField, BitVec.extractLsb'_toNat]

theorem rsvdField_toNat (w : Word) : (rsvdField w).toNat = w.toNat / 16 := by
  have h := w.isLt
  simp only [rsvdField, BitVec.extractLsb'_toNat, Nat.shiftRight_eq_div_pow]
  omega

/-- The two fields of a word make it up. -/
theorem rsvdField_append_opField (w : Word) : (rsvdField w ++ opField w : Word) = w := by
  apply BitVec.eq_of_toNat_eq
  have h := w.isLt
  rw [BitVec.toNat_append, opField_toNat, rsvdField_toNat, ← Nat.shiftLeft_add_eq_or_of_lt
    (by omega), Nat.shiftLeft_eq]
  omega

@[simp] theorem byteOfWord_wordOfBytes (b0 b1 b2 b3 : Byte) :
    byteOfWord (wordOfBytes b0 b1 b2 b3) 0 = b0 ∧ byteOfWord (wordOfBytes b0 b1 b2 b3) 1 = b1
      ∧ byteOfWord (wordOfBytes b0 b1 b2 b3) 2 = b2
      ∧ byteOfWord (wordOfBytes b0 b1 b2 b3) 3 = b3 := by
  refine ⟨?_, ?_, ?_, ?_⟩ <;>
  · simp only [byteOfWord, wordOfBytes]
    ext j hj
    simp only [BitVec.getElem_extractLsb', BitVec.getLsbD_append]
    interval_cases j <;> rfl

theorem wordOfBytes_byteOfWord (w : Word) :
    wordOfBytes (byteOfWord w 0) (byteOfWord w 1) (byteOfWord w 2) (byteOfWord w 3) = w := by
  apply BitVec.eq_of_getElem_eq
  intro j hj
  simp only [byteOfWord, wordOfBytes, ← BitVec.getLsbD_eq_getElem, BitVec.getLsbD_append,
    BitVec.getLsbD_extractLsb']
  interval_cases j <;> simp

/-- The bytes of a word decode to the word's command, and what follows is left. -/
@[simp] theorem decodeBytes_bytesOfWord (w : Word) (rest : List Byte) :
    decodeBytes (bytesOfWord w ++ rest) = .ok (decodeWord w, rest) := by
  simp [bytesOfWord, decodeBytes, wordOfBytes_byteOfWord]

end Sys2Proof
end

