-- ==== Sys2Proof/Laws/Buffers.lean ====
section
/-! SUPPORT. Byte buffers: reading a byte, reading and writing a word (20_memory.md R65), and the halves
of a 64-bit pair (R64). -/

namespace Sys2Proof.Machine

theorem byteAt_of_lt {n : Nat} (v : Vector Byte n) (j : Nat) (h : j < n) : byteAt v j = v[j] := by
  simp [byteAt, h]

theorem byteAt_of_ge {n : Nat} (v : Vector Byte n) (j : Nat) (h : n ≤ j) : byteAt v j = 0 := by
  simp [byteAt, h]

@[simp] theorem byteAt_fin {n : Nat} (v : Vector Byte n) (j : Fin n) : byteAt v j.val = v[j] := by
  simp [byteAt]

theorem byteAt_bufferOf (n : Nat) (str : List Byte) (j : Nat) (h : j < n) :
    byteAt (bufferOf n str) j = (str[j]?).getD 0 := by
  simp [byteAt, bufferOf, h]

theorem byteAt_setWord {n : Nat} (v : Vector Byte n) (k : Nat) (d : Word) (j : Nat) (h : j < n) :
    byteAt (setWord v k d) j = if j / 4 = k then byteOfWord d (j % 4) else byteAt v j := by
  simp [byteAt, setWord, h]

/-- Two buffers with the same bytes are the same. -/
theorem buffer_ext {n : Nat} {v v' : Vector Byte n} (h : ∀ j, j < n → byteAt v j = byteAt v' j) :
    v = v' := by
  ext j hj : 1
  simpa [byteAt, hj] using h j hj

@[simp] theorem bufferOf_nil (n : Nat) : bufferOf n [] = Vector.replicate n 0 := by
  ext j hj : 1
  simp [bufferOf]

/-- A written word reads back. -/
theorem packWord_setWord_same {n : Nat} (v : Vector Byte n) (k : Nat) (d : Word)
    (h : 4 * k + 3 < n) : packWord (setWord v k d) k = d := by
  rw [packWord, byteAt_setWord _ _ _ _ (by omega), byteAt_setWord _ _ _ _ (by omega),
    byteAt_setWord _ _ _ _ (by omega), byteAt_setWord _ _ _ _ h, if_pos (by omega),
    if_pos (by omega), if_pos (by omega), if_pos (by omega),
    show 4 * k % 4 = 0 by omega, show (4 * k + 1) % 4 = 1 by omega,
    show (4 * k + 2) % 4 = 2 by omega, show (4 * k + 3) % 4 = 3 by omega]
  exact wordOfBytes_byteOfWord d

/-- A write leaves every other word. -/
theorem packWord_setWord_other {n : Nat} (v : Vector Byte n) (k k' : Nat) (d : Word)
    (h : 4 * k' + 3 < n) (hk : k' ≠ k) : packWord (setWord v k d) k' = packWord v k' := by
  rw [packWord, byteAt_setWord _ _ _ _ (by omega), byteAt_setWord _ _ _ _ (by omega),
    byteAt_setWord _ _ _ _ (by omega), byteAt_setWord _ _ _ _ h, if_neg (by omega),
    if_neg (by omega), if_neg (by omega), if_neg (by omega)]
  rfl

/-- Byte `j` of a buffer is byte `j mod 4` of its word `j div 4` (20_memory.md R65). -/
theorem byteOfWord_packWord {n : Nat} (v : Vector Byte n) (j : Nat) :
    byteOfWord (packWord v (j / 4)) (j % 4) = byteAt v j := by
  obtain ⟨h0, h1, h2, h3⟩ := byteOfWord_wordOfBytes (byteAt v (4 * (j / 4)))
    (byteAt v (4 * (j / 4) + 1)) (byteAt v (4 * (j / 4) + 2)) (byteAt v (4 * (j / 4) + 3))
  have hj := Nat.div_add_mod j 4
  have hm := Nat.mod_lt j (show 4 > 0 by omega)
  rw [packWord]
  interval_cases h : j % 4
  · rw [h0, ← hj]; congr 2; omega
  · rw [h1, hj]
  · rw [h2, hj]
  · rw [h3, hj]

@[simp] theorem pairValue_halves (x : BitVec 64) : pairValue (hiHalf x) (loHalf x) = x := by
  apply BitVec.eq_of_getElem_eq
  intro j hj
  simp only [pairValue, hiHalf, loHalf, ← BitVec.getLsbD_eq_getElem, BitVec.getLsbD_append,
    BitVec.getLsbD_extractLsb']
  split
  · simp [*]
  · rw [decide_eq_true (show j - 32 < 32 by omega), Bool.true_and,
      show 32 + (j - 32) = j by omega]

@[simp] theorem loHalf_zero : loHalf 0 = 0 := by decide
@[simp] theorem hiHalf_zero : hiHalf 0 = 0 := by decide

/-- A pair of registers holds a value only as its halves. -/
theorem pairValue_inj {hi lo hi' lo' : Word} (h : pairValue hi lo = pairValue hi' lo') :
    hi = hi' ∧ lo = lo' := by
  have e := congrArg BitVec.toNat h
  have := hi.isLt; have := hi'.isLt; have := lo.isLt; have := lo'.isLt
  rw [pairValue, pairValue, BitVec.toNat_append, BitVec.toNat_append,
    ← Nat.shiftLeft_add_eq_or_of_lt lo.isLt, ← Nat.shiftLeft_add_eq_or_of_lt lo'.isLt,
    Nat.shiftLeft_eq, Nat.shiftLeft_eq] at e
  constructor <;> apply BitVec.eq_of_toNat_eq <;> omega

/-- `s64` of `bits64` is the value, in the range of 64 bits (00_scope.md R12). -/
theorem s64_bits64 (x : Int) (h1 : -2 ^ 63 ≤ x) (h2 : x < 2 ^ 63) : s64 (bits64 x) = x := by
  rw [s64, bits64, BitVec.toInt_ofInt]
  exact Int.bmod_eq_of_le (by omega) (by omega)

end Sys2Proof.Machine
end

