-- ==== Sys2Proof/Laws/Lookup.lean ====
section
/-! SUPPORT. What the lookups say: the reverse map, case normalisation, the duplicate check, the register
map. -/

namespace Sys2Proof.Machine

/-- The reverse map answers the lowest position that holds the byte. -/
theorem rmap_eq_some_iff (alpha : Vector Byte 36) (c : Byte) (i : Fin 36) :
    rmap alpha c = some i ↔ alpha[i] = c ∧ ∀ j : Fin 36, j < i → alpha[j] ≠ c := by
  rw [rmap, List.find?_eq_some_iff_getElem]
  constructor
  · rintro ⟨h, k, hk, hki, hlt⟩
    rw [List.getElem_finRange] at hki
    subst hki
    refine ⟨by simpa using h, fun j hj => ?_⟩
    have := hlt j.val (by simpa [Fin.lt_def] using hj)
    simpa using this
  · rintro ⟨h, hlt⟩
    refine ⟨by simpa using h, i.val, by simp, by simp, fun j hj => ?_⟩
    have := hlt ⟨j, by omega⟩ (by simpa [Fin.lt_def] using hj)
    simpa using this

theorem lc_eq_minus_iff (b : Byte) : lc b = 0x2D ↔ b = 0x2D := by
  unfold lc
  split
  · rename_i h
    constructor
    · intro e
      have := congrArg BitVec.toNat e
      rw [BitVec.toNat_add, show (0x20 : Byte).toNat = 32 from rfl,
        show (0x2D : Byte).toNat = 45 from rfl] at this
      omega
    · rintro rfl; simp at h
  · rfl

/-- The duplicate check finds a repeated byte exactly where there is one. -/
theorem hasDuplicate_eq_false_iff (bs : List Byte) : hasDuplicate bs = false ↔ bs.Nodup := by
  induction bs with
  | nil => simp [hasDuplicate]
  | cons b bs ih => simp [hasDuplicate, ih]

theorem hasDuplicate_eq_true_iff (bs : List Byte) : hasDuplicate bs = true ↔ ¬ bs.Nodup := by
  rw [← hasDuplicate_eq_false_iff, Bool.not_eq_false]

/-- A buffer's bytes are distinct exactly when its positions are. -/
theorem nodup_toList_iff {n : Nat} (v : Vector Byte n) :
    v.toList.Nodup ↔ ∀ i j : Fin n, i ≠ j → v[i] ≠ v[j] := by
  rw [List.nodup_iff_injective_get]
  constructor
  · intro h i j hij e
    have := @h ⟨i.val, by simp⟩ ⟨j.val, by simp⟩ (by simpa using e)
    exact hij (by simpa [Fin.ext_iff] using this)
  · intro h a b e
    by_contra hab
    have ha : a.val < n := by simpa using a.isLt
    have hb : b.val < n := by simpa using b.isLt
    exact h ⟨a.val, ha⟩ ⟨b.val, hb⟩ (by simpa [Fin.ext_iff] using hab) (by simpa using e)

/-- The registers at the word indices of 10_state.md R23, named one by one. -/
theorem hostReg_named :
    hostReg 0 = .id ∧ hostReg 1 = .ctrl ∧ hostReg 2 = .cmd ∧ hostReg 3 = .status
      ∧ hostReg 4 = .valInLo ∧ hostReg 5 = .valInHi ∧ hostReg 6 = .valOutLo
      ∧ hostReg 7 = .valOutHi ∧ hostReg 8 = .decLen ∧ hostReg 9 = .encLen
      ∧ hostReg 10 = .cfgLen := by decide

theorem hostReg_decText (k : Fin 4) : hostReg (BitVec.ofNat 6 (12 + k.val)) = .decText k := by
  revert k; decide
theorem hostReg_encText (k : Fin 4) : hostReg (BitVec.ofNat 6 (16 + k.val)) = .encText k := by
  revert k; decide
theorem hostReg_cfgAlpha (k : Fin 9) : hostReg (BitVec.ofNat 6 (20 + k.val)) = .cfgAlpha k := by
  revert k; decide
theorem hostReg_actAlpha (k : Fin 9) : hostReg (BitVec.ofNat 6 (32 + k.val)) = .actAlpha k := by
  revert k; decide

/-- The register map is one to one outside the reserved indices. -/
theorem hostReg_inj : ∀ w w' : HostIndex, hostReg w = hostReg w' → hostReg w = .reserved ∨ w = w' := by
  decide +kernel

end Sys2Proof.Machine
end

