-- ==== Sys2Proof/Laws/Decoder.lean ====
section
/-! SUPPORT. The decode datapath computes positional notation exactly: the loop of 43_decode.md R166,
R167 leaves the value of the digits in ACC, or sets BAD where a symbol is not in the alphabet. -/

namespace Sys2Proof.Machine

@[simp] theorem digitSum_zero (d : Nat → Nat) : digitSum d 0 = 0 := rfl

/-- The first digit counts 36^(n−1), the rest as before. -/
theorem digitSum_succ (d : Nat → Nat) (n : Nat) :
    digitSum d (n + 1) = d 0 * 36 ^ n + digitSum (fun i => d (i + 1)) n := by
  rw [digitSum, Finset.sum_range_succ', Nat.add_comm, digitSum]
  congr 1
  apply Finset.sum_congr rfl
  intro i hi
  rw [Finset.mem_range] at hi
  congr 2; omega

/-- The symbol the datapath looks up next (43_decode.md R166). -/
def nextDigit (alpha : Vector Byte 36) (text : Vector Byte 16) (p : DecodePath) (i : Nat) :
    Option (Fin 36) :=
  rmap alpha (lc (byteAt text (p.start.toNat + (p.idx.toNat + i))))

theorem decodeIter_none (alpha : Vector Byte 36) (text : Vector Byte 16) (p : DecodePath)
    (h : nextDigit alpha text p 0 = none) :
    decodeIter alpha text p = { p with bad := true } := by
  rw [nextDigit, Nat.add_zero] at h
  rw [decodeIter, h]

/-- One iteration on a valid symbol: the digit times its weight is added without wrapping
(43_decode.md R167), and IDX goes on. -/
theorem decodeIter_some (alpha : Vector Byte 36) (text : Vector Byte 16) (p : DecodePath) (k : Nat)
    (d : Fin 36) (h : nextDigit alpha text p 0 = some d) (hn : p.n.toNat = p.idx.toNat + (k + 1))
    (hn13 : p.n.toNat ≤ 13) (hacc : p.acc.toNat + 36 ^ (k + 1) ≤ 36 ^ 13) :
    (decodeIter alpha text p).acc.toNat = p.acc.toNat + d.val * 36 ^ k
      ∧ (decodeIter alpha text p).idx.toNat = p.idx.toNat + 1
      ∧ (decodeIter alpha text p).neg = p.neg ∧ (decodeIter alpha text p).start = p.start
      ∧ (decodeIter alpha text p).n = p.n ∧ (decodeIter alpha text p).bad = p.bad := by
  have hw : ∀ k, k ≤ 12 → (weight k).toNat = 36 ^ k := by decide
  have hd : d.val * 36 ^ k ≤ 35 * 36 ^ k := Nat.mul_le_mul_right _ (by omega)
  have hp : 36 ^ (k + 1) = 36 * 36 ^ k := by rw [Nat.pow_succ, Nat.mul_comm]
  have hbig : (36 : Nat) ^ 13 < 2 ^ 68 := by norm_num
  rw [nextDigit, Nat.add_zero] at h
  rw [decodeIter, h]
  refine ⟨?_, ?_, rfl, rfl, rfl, rfl⟩
  · rw [hn, show p.idx.toNat + (k + 1) - 1 - p.idx.toNat = k by omega, hw k (by omega),
      BitVec.toNat_add, BitVec.toNat_ofNat, Nat.mod_eq_of_lt (a := d.val * 36 ^ k) (by omega)]
    exact Nat.mod_eq_of_lt (by omega)
  · show (p.idx + 1).toNat = _
    rw [BitVec.toNat_add]
    exact Nat.mod_eq_of_lt (by simp; omega)

/-- All symbols valid: BAD stays 0 and ACC grows by their value (43_decode.md R167). -/
theorem decodeLoop_valid (alpha : Vector Byte 36) (text : Vector Byte 16) (k : Nat) :
    ∀ (p : DecodePath) (d : Nat → Fin 36), p.n.toNat = p.idx.toNat + k → p.n.toNat ≤ 13 →
      p.acc.toNat + 36 ^ k ≤ 36 ^ 13 → p.bad = false →
      (∀ i, i < k → nextDigit alpha text p i = some (d i)) →
        (decodeLoop alpha text k p).bad = false ∧ (decodeLoop alpha text k p).neg = p.neg
          ∧ (decodeLoop alpha text k p).acc.toNat
              = p.acc.toNat + digitSum (fun i => (d i).val) k := by
  induction k with
  | zero => intro p d _ _ _ hb _; exact ⟨hb, rfl, rfl⟩
  | succ k ih =>
    intro p d hn hn13 hacc hb hd
    have h0 := hd 0 (by omega)
    obtain ⟨ha, hi, hneg, hs, hnn, hbad⟩ := decodeIter_some alpha text p k (d 0) h0 hn hn13 hacc
    have hp : 36 ^ (k + 1) = 36 * 36 ^ k := by rw [Nat.pow_succ, Nat.mul_comm]
    have hle : (d 0).val * 36 ^ k ≤ 35 * 36 ^ k := Nat.mul_le_mul_right _ (by omega)
    obtain ⟨g1, g2, g3⟩ := ih (decodeIter alpha text p) (fun i => d (i + 1)) (by rw [hnn, hi]; omega)
      (by rw [hnn]; exact hn13) (by rw [ha]; omega) (by rw [hbad]; exact hb) (by
        intro i hik
        have := hd (i + 1) (by omega)
        rw [nextDigit] at this ⊢
        rw [hs, hi]
        rw [← this]; congr 3; omega)
    simp only [decodeLoop, hbad, hb, Bool.false_eq_true, if_false]
    exact ⟨g1, g2.trans hneg, by rw [g3, ha, digitSum_succ]; omega⟩

/-- Some symbol invalid: BAD is set (43_decode.md R166). -/
theorem decodeLoop_invalid (alpha : Vector Byte 36) (text : Vector Byte 16) (k : Nat) :
    ∀ p : DecodePath, p.n.toNat = p.idx.toNat + k → p.n.toNat ≤ 13 →
      p.acc.toNat + 36 ^ k ≤ 36 ^ 13 → p.bad = false →
      (∃ i, i < k ∧ nextDigit alpha text p i = none) →
        (decodeLoop alpha text k p).bad = true := by
  induction k with
  | zero => rintro p - - - - ⟨i, hi, -⟩; omega
  | succ k ih =>
    rintro p hn hn13 hacc hb ⟨i, hik, hi⟩
    cases h0 : nextDigit alpha text p 0 with
    | none => simp [decodeLoop, decodeIter_none alpha text p h0]
    | some d =>
      obtain ⟨ha, hidx, -, hs, hnn, hbad⟩ := decodeIter_some alpha text p k d h0 hn hn13 hacc
      have hp : 36 ^ (k + 1) = 36 * 36 ^ k := by rw [Nat.pow_succ, Nat.mul_comm]
      have hle : d.val * 36 ^ k ≤ 35 * 36 ^ k := Nat.mul_le_mul_right _ (by omega)
      simp only [decodeLoop, hbad, hb, Bool.false_eq_true, if_false]
      refine ih _ (by rw [hnn, hidx]; omega) (by rw [hnn]; exact hn13) (by rw [ha]; omega)
        (by rw [hbad]; exact hb) ⟨i - 1, ?_, ?_⟩
      · have : i ≠ 0 := by rintro rfl; rw [h0] at hi; simp at hi
        omega
      · have : i ≠ 0 := by rintro rfl; rw [h0] at hi; simp at hi
        rw [nextDigit] at hi ⊢
        rw [hs, hidx, ← hi]; congr 3; omega

theorem nextDigit_decodeStart (s : State) (i : Nat) :
    nextDigit s.actAlpha s.decText (decodeStart s) i = inputDigit s i := by
  have h : (decodeStart s).start.toNat = decodeOffset s := by
    simp only [decodeStart, decodeOffset]; split <;> rfl
  rw [nextDigit, inputDigit, h]
  simp [decodeStart]

/-- The whole run on at most 13 valid symbols. -/
theorem decodeRun_valid (s : State) (d : Nat → Fin 36) (hn : decodeCount s ≤ 13)
    (hd : ∀ i, i < decodeCount s → inputDigit s i = some (d i)) :
    (decodeRun s).bad = false ∧ (decodeRun s).neg = decodeSign s
      ∧ (decodeRun s).acc.toNat = digitSum (fun i => (d i).val) (decodeCount s) := by
  have hN : (decodeStart s).n.toNat = decodeCount s := by
    simp only [decodeStart, BitVec.toNat_ofNat]; exact Nat.mod_eq_of_lt (by omega)
  have hpow : 36 ^ decodeCount s ≤ 36 ^ 13 := Nat.pow_le_pow_right (by omega) hn
  obtain ⟨h1, h2, h3⟩ := decodeLoop_valid s.actAlpha s.decText (decodeCount s) (decodeStart s) d
    (by rw [hN]; simp [decodeStart]) (by rw [hN]; exact hn) (by simpa [decodeStart] using hpow) rfl
    (fun i hi => by rw [nextDigit_decodeStart]; exact hd i hi)
  exact ⟨h1, h2, by rw [decodeRun, h3]; simp [decodeStart]⟩

/-- The whole run on at most 13 symbols, one of them invalid. -/
theorem decodeRun_invalid (s : State) (hn : decodeCount s ≤ 13)
    (h : ∃ i, i < decodeCount s ∧ inputDigit s i = none) : (decodeRun s).bad = true := by
  have hN : (decodeStart s).n.toNat = decodeCount s := by
    simp only [decodeStart, BitVec.toNat_ofNat]; exact Nat.mod_eq_of_lt (by omega)
  have hpow : 36 ^ decodeCount s ≤ 36 ^ 13 := Nat.pow_le_pow_right (by omega) hn
  obtain ⟨i, hi, hnone⟩ := h
  exact decodeLoop_invalid s.actAlpha s.decText (decodeCount s) (decodeStart s)
    (by rw [hN]; simp [decodeStart]) (by rw [hN]; exact hn) (by simpa [decodeStart] using hpow) rfl
    ⟨i, hi, by rw [nextDigit_decodeStart]; exact hnone⟩

end Sys2Proof.Machine
end

