-- ==== Sys2Proof/Laws/Encoder.lean ====
section
/-! SUPPORT. The encode datapath computes positional notation: the loop of 42_encode.md R144 leaves in
DBUF the radix-36 digits of the magnitude, most significant first. -/

namespace Sys2Proof.Machine

theorem digitSymbols_of_lt (alpha : Vector Byte 36) (m : Nat) (h : m < 36) :
    digitSymbols alpha m = [byteAt alpha m] := by
  unfold digitSymbols
  split
  · simp [*]
  · rw [Nat.digits_of_lt 36 m (by omega) h]; rfl

theorem digitSymbols_of_ge (alpha : Vector Byte 36) (m : Nat) (h : 36 ≤ m) :
    digitSymbols alpha m = digitSymbols alpha (m / 36) ++ [byteAt alpha (m % 36)] := by
  have h36 : m / 36 ≠ 0 := by omega
  rw [digitSymbols, if_neg (by omega), digitSymbols, if_neg h36,
    Nat.digits_def' (by omega) (by omega)]
  simp

theorem digitSymbols_length (alpha : Vector Byte 36) (m : Nat) :
    (digitSymbols alpha m).length = if m = 0 then 1 else (Nat.digits 36 m).length := by
  unfold digitSymbols; split <;> simp

theorem digitSymbols_length_pos (alpha : Vector Byte 36) (m : Nat) :
    1 ≤ (digitSymbols alpha m).length := by
  rw [digitSymbols_length]
  split
  · rfl
  · exact List.length_pos_of_ne_nil (Nat.digits_ne_nil_iff_ne_zero.mpr ‹_›)

/-- D(m) ≤ k for m < 36^k (42_encode.md R144). -/
theorem digitSymbols_length_le (alpha : Vector Byte 36) (m k : Nat) (hk : 1 ≤ k)
    (h : m < 36 ^ k) : (digitSymbols alpha m).length ≤ k := by
  rw [digitSymbols_length]
  split
  · exact hk
  · exact (Nat.digits_length_le_iff (by omega) m).mpr h

/-- D(m) > k for m ≥ 36^k (42_encode.md R144). -/
theorem lt_digitSymbols_length (alpha : Vector Byte 36) (m k : Nat) (h : 36 ^ k ≤ m) :
    k < (digitSymbols alpha m).length := by
  have : 0 < 36 ^ k := Nat.pow_pos (by omega)
  rw [digitSymbols_length, if_neg (by omega)]
  exact (Nat.lt_digits_length_iff (by omega) m).mpr h

theorem take_prependSymbol (b : Byte) (v : Vector Byte 13) (k : Nat) (h : k ≤ 12) :
    (prependSymbol b v).toList.take (k + 1) = b :: v.toList.take k := by
  apply List.ext_getElem
  · simp; omega
  · intro i h1 h2
    simp only [List.length_take, Vector.length_toList] at h1
    cases i with
    | zero => simp [prependSymbol]
    | succ i => simp [prependSymbol, byteAt_of_lt v i (by omega)]

theorem encodeIter_mag (alpha : Vector Byte 36) (p : EncodePath) :
    (encodeIter alpha p).mag.toNat = p.mag.toNat / 36 := by
  have := p.mag.isLt
  simp only [encodeIter, BitVec.toNat_ofNat]
  omega

/-- The loop: NEG stays, DCNT grows by the number of digits, and the digits stand before what DBUF
held (42_encode.md R144). -/
theorem encodeLoop_digits (alpha : Vector Byte 36) (fuel : Nat) :
    ∀ p : EncodePath, p.mag.toNat < 36 ^ (fuel + 1) → p.dcnt.toNat + fuel + 1 ≤ 13 →
      (encodeLoop alpha (fuel + 1) p).neg = p.neg
        ∧ (encodeLoop alpha (fuel + 1) p).dcnt.toNat
            = p.dcnt.toNat + (digitSymbols alpha p.mag.toNat).length
        ∧ (encodeLoop alpha (fuel + 1) p).dbuf.toList.take
              (p.dcnt.toNat + (digitSymbols alpha p.mag.toNat).length)
            = digitSymbols alpha p.mag.toNat ++ p.dbuf.toList.take p.dcnt.toNat := by
  induction fuel with
  | zero =>
    intro p hm hd
    have hm' : p.mag.toNat < 36 := by simpa using hm
    have hq : (encodeIter alpha p).mag = 0 := by
      apply BitVec.eq_of_toNat_eq
      rw [encodeIter_mag]; simp; omega
    have hc : (p.dcnt + 1).toNat = p.dcnt.toNat + 1 := by
      rw [BitVec.toNat_add]; exact Nat.mod_eq_of_lt (by simp; omega)
    have hmod : p.mag.toNat % 36 = p.mag.toNat := Nat.mod_eq_of_lt hm'
    simp only [encodeLoop, hq, if_true, digitSymbols_of_lt alpha _ hm', List.length_singleton]
    refine ⟨rfl, hc, ?_⟩
    rw [encodeIter, hmod, take_prependSymbol _ _ _ (by omega)]
    rfl
  | succ fuel ih =>
    intro p hm hd
    have hc : (p.dcnt + 1).toNat = p.dcnt.toNat + 1 := by
      rw [BitVec.toNat_add]; exact Nat.mod_eq_of_lt (by simp; omega)
    by_cases h36 : p.mag.toNat < 36
    · have hq : (encodeIter alpha p).mag = 0 := by
        apply BitVec.eq_of_toNat_eq
        rw [encodeIter_mag]; simp; omega
      have hmod : p.mag.toNat % 36 = p.mag.toNat := Nat.mod_eq_of_lt h36
      rw [encodeLoop]
      simp only [hq, if_true, digitSymbols_of_lt alpha _ h36, List.length_singleton]
      refine ⟨rfl, hc, ?_⟩
      rw [encodeIter, hmod, take_prependSymbol _ _ _ (by omega)]
      rfl
    · have hq : (encodeIter alpha p).mag ≠ 0 := by
        intro e
        have := congrArg BitVec.toNat e
        rw [encodeIter_mag] at this
        simp at this; omega
      have hlt : (encodeIter alpha p).mag.toNat < 36 ^ (fuel + 1) := by
        rw [encodeIter_mag]
        exact Nat.div_lt_of_lt_mul (by rwa [Nat.pow_succ, Nat.mul_comm] at hm)
      have hcnt : (encodeIter alpha p).dcnt.toNat = p.dcnt.toNat + 1 := hc
      obtain ⟨h1, h2, h3⟩ := ih (encodeIter alpha p) hlt (by rw [hcnt]; omega)
      rw [encodeIter_mag, hcnt] at h2 h3
      rw [encodeLoop]
      simp only [hq, if_false]
      rw [digitSymbols_of_ge alpha _ (by omega), List.length_append, List.length_singleton,
        show p.dcnt.toNat + ((digitSymbols alpha (p.mag.toNat / 36)).length + 1)
          = p.dcnt.toNat + 1 + (digitSymbols alpha (p.mag.toNat / 36)).length by omega]
      refine ⟨h1, h2, ?_⟩
      rw [h3, show (encodeIter alpha p).dbuf = prependSymbol (byteAt alpha (p.mag.toNat % 36)) p.dbuf
        from rfl, take_prependSymbol _ _ _ (by omega)]
      simp

/-- The string the datapath assembles is the radix-36 text of the value (42_encode.md R146), whatever
the registers held before. -/
theorem encodeString_encodeLoop (alpha : Vector Byte 36) (v : Int) (p : EncodePath)
    (h1 : -2 ^ 63 < v) (h2 : v < 2 ^ 63) :
    encodeString (encodeLoop alpha maxDigits (encodeStart v p)) = encodeText alpha v := by
  have hm : (encodeStart v p).mag.toNat = v.natAbs := by
    simp only [encodeStart, BitVec.toNat_ofNat]
    omega
  have hpow : (2 : Nat) ^ 63 ≤ 36 ^ (12 + 1) := by norm_num
  obtain ⟨hn, hc, hd⟩ := encodeLoop_digits alpha 12 (encodeStart v p) (by rw [hm]; omega)
    (by simp [encodeStart])
  have h0 : (encodeStart v p).dcnt.toNat = 0 := rfl
  rw [hm, h0, Nat.zero_add] at hc hd
  rw [encodeString, encodeText, maxDigits, hn, hc, hd]
  simp [encodeStart, minusSign]

theorem encodeText_length_pos (alpha : Vector Byte 36) (v : Int) :
    1 ≤ (encodeText alpha v).length := by
  have := digitSymbols_length_pos alpha v.natAbs
  rw [encodeText, List.length_append]; omega

/-- The output has at most 14 bytes (42_encode.md R149). -/
theorem encodeText_length_le (alpha : Vector Byte 36) (v : Int) (h1 : -2 ^ 63 < v)
    (h2 : v < 2 ^ 63) : (encodeText alpha v).length ≤ 14 := by
  have hpow : (2 : Nat) ^ 63 ≤ 36 ^ 13 := by norm_num
  have := digitSymbols_length_le alpha v.natAbs 13 (by omega) (by omega)
  rw [encodeText, List.length_append]
  split <;> simp <;> omega

end Sys2Proof.Machine
end

