-- ==== Sys2Proof/Laws/State.lean ====
section
/-! SUPPORT. What each named update of the state does to each field, so that no later proof unfolds an
update. -/

namespace Sys2Proof.Machine

/-! `issue` -/

@[simp] theorem State.issue_ie (s : State) (d : Word) : (s.issue d).ie = s.ie := rfl
@[simp] theorem State.issue_busy (s : State) (d : Word) : (s.issue d).busy = true := rfl
@[simp] theorem State.issue_done (s : State) (d : Word) : (s.issue d).done = false := rfl
@[simp] theorem State.issue_cfgValid (s : State) (d : Word) :
    (s.issue d).cfgValid = s.cfgValid := rfl
@[simp] theorem State.issue_ovr (s : State) (d : Word) : (s.issue d).ovr = s.ovr := rfl
@[simp] theorem State.issue_err (s : State) (d : Word) : (s.issue d).err = s.err := rfl
@[simp] theorem State.issue_lastOp (s : State) (d : Word) : (s.issue d).lastOp = s.lastOp := rfl
@[simp] theorem State.issue_valInLo (s : State) (d : Word) : (s.issue d).valInLo = s.valInLo := rfl
@[simp] theorem State.issue_valInHi (s : State) (d : Word) : (s.issue d).valInHi = s.valInHi := rfl
@[simp] theorem State.issue_valOutLo (s : State) (d : Word) :
    (s.issue d).valOutLo = s.valOutLo := rfl
@[simp] theorem State.issue_valOutHi (s : State) (d : Word) :
    (s.issue d).valOutHi = s.valOutHi := rfl
@[simp] theorem State.issue_decLen (s : State) (d : Word) : (s.issue d).decLen = s.decLen := rfl
@[simp] theorem State.issue_encLen (s : State) (d : Word) : (s.issue d).encLen = s.encLen := rfl
@[simp] theorem State.issue_cfgLen (s : State) (d : Word) : (s.issue d).cfgLen = s.cfgLen := rfl
@[simp] theorem State.issue_decText (s : State) (d : Word) : (s.issue d).decText = s.decText := rfl
@[simp] theorem State.issue_encText (s : State) (d : Word) : (s.issue d).encText = s.encText := rfl
@[simp] theorem State.issue_cfgAlpha (s : State) (d : Word) :
    (s.issue d).cfgAlpha = s.cfgAlpha := rfl
@[simp] theorem State.issue_actAlpha (s : State) (d : Word) :
    (s.issue d).actAlpha = s.actAlpha := rfl
@[simp] theorem State.issue_pend (s : State) (d : Word) : (s.issue d).pend = d := rfl
@[simp] theorem State.issue_encPath (s : State) (d : Word) : (s.issue d).encPath = s.encPath := rfl
@[simp] theorem State.issue_decPath (s : State) (d : Word) : (s.issue d).decPath = s.decPath := rfl
@[simp] theorem State.issue_readData (s : State) (d : Word) :
    (s.issue d).readData = s.readData := rfl
@[simp] theorem State.issue_schedule (s : State) (d : Word) :
    (s.issue d).schedule = s.schedule := rfl
@[simp] theorem State.issue_draws (s : State) (d : Word) : (s.issue d).draws = s.draws := rfl

/-! `dropWrite` -/

@[simp] theorem State.dropWrite_ie (s : State) : (s.dropWrite).ie = s.ie := rfl
@[simp] theorem State.dropWrite_busy (s : State) : (s.dropWrite).busy = s.busy := rfl
@[simp] theorem State.dropWrite_done (s : State) : (s.dropWrite).done = s.done := rfl
@[simp] theorem State.dropWrite_cfgValid (s : State) : (s.dropWrite).cfgValid = s.cfgValid := rfl
@[simp] theorem State.dropWrite_ovr (s : State) : (s.dropWrite).ovr = true := rfl
@[simp] theorem State.dropWrite_err (s : State) : (s.dropWrite).err = s.err := rfl
@[simp] theorem State.dropWrite_lastOp (s : State) : (s.dropWrite).lastOp = s.lastOp := rfl
@[simp] theorem State.dropWrite_valInLo (s : State) : (s.dropWrite).valInLo = s.valInLo := rfl
@[simp] theorem State.dropWrite_valInHi (s : State) : (s.dropWrite).valInHi = s.valInHi := rfl
@[simp] theorem State.dropWrite_valOutLo (s : State) : (s.dropWrite).valOutLo = s.valOutLo := rfl
@[simp] theorem State.dropWrite_valOutHi (s : State) : (s.dropWrite).valOutHi = s.valOutHi := rfl
@[simp] theorem State.dropWrite_decLen (s : State) : (s.dropWrite).decLen = s.decLen := rfl
@[simp] theorem State.dropWrite_encLen (s : State) : (s.dropWrite).encLen = s.encLen := rfl
@[simp] theorem State.dropWrite_cfgLen (s : State) : (s.dropWrite).cfgLen = s.cfgLen := rfl
@[simp] theorem State.dropWrite_decText (s : State) : (s.dropWrite).decText = s.decText := rfl
@[simp] theorem State.dropWrite_encText (s : State) : (s.dropWrite).encText = s.encText := rfl
@[simp] theorem State.dropWrite_cfgAlpha (s : State) : (s.dropWrite).cfgAlpha = s.cfgAlpha := rfl
@[simp] theorem State.dropWrite_actAlpha (s : State) : (s.dropWrite).actAlpha = s.actAlpha := rfl
@[simp] theorem State.dropWrite_pend (s : State) : (s.dropWrite).pend = s.pend := rfl
@[simp] theorem State.dropWrite_encPath (s : State) : (s.dropWrite).encPath = s.encPath := rfl
@[simp] theorem State.dropWrite_decPath (s : State) : (s.dropWrite).decPath = s.decPath := rfl
@[simp] theorem State.dropWrite_readData (s : State) : (s.dropWrite).readData = s.readData := rfl
@[simp] theorem State.dropWrite_schedule (s : State) : (s.dropWrite).schedule = s.schedule := rfl
@[simp] theorem State.dropWrite_draws (s : State) : (s.dropWrite).draws = s.draws := rfl

/-! `complete` -/

@[simp] theorem State.complete_ie (s : State) (c : StatusCode) : (s.complete c).ie = s.ie := rfl
@[simp] theorem State.complete_busy (s : State) (c : StatusCode) :
    (s.complete c).busy = false := rfl
@[simp] theorem State.complete_done (s : State) (c : StatusCode) : (s.complete c).done = true := rfl
@[simp] theorem State.complete_cfgValid (s : State) (c : StatusCode) :
    (s.complete c).cfgValid = s.cfgValid := rfl
@[simp] theorem State.complete_ovr (s : State) (c : StatusCode) : (s.complete c).ovr = s.ovr := rfl
@[simp] theorem State.complete_err (s : State) (c : StatusCode) : (s.complete c).err = c := rfl
@[simp] theorem State.complete_lastOp (s : State) (c : StatusCode) :
    (s.complete c).lastOp = opField s.pend := rfl
@[simp] theorem State.complete_valInLo (s : State) (c : StatusCode) :
    (s.complete c).valInLo = s.valInLo := rfl
@[simp] theorem State.complete_valInHi (s : State) (c : StatusCode) :
    (s.complete c).valInHi = s.valInHi := rfl
@[simp] theorem State.complete_valOutLo (s : State) (c : StatusCode) :
    (s.complete c).valOutLo = s.valOutLo := rfl
@[simp] theorem State.complete_valOutHi (s : State) (c : StatusCode) :
    (s.complete c).valOutHi = s.valOutHi := rfl
@[simp] theorem State.complete_decLen (s : State) (c : StatusCode) :
    (s.complete c).decLen = s.decLen := rfl
@[simp] theorem State.complete_encLen (s : State) (c : StatusCode) :
    (s.complete c).encLen = s.encLen := rfl
@[simp] theorem State.complete_cfgLen (s : State) (c : StatusCode) :
    (s.complete c).cfgLen = s.cfgLen := rfl
@[simp] theorem State.complete_decText (s : State) (c : StatusCode) :
    (s.complete c).decText = s.decText := rfl
@[simp] theorem State.complete_encText (s : State) (c : StatusCode) :
    (s.complete c).encText = s.encText := rfl
@[simp] theorem State.complete_cfgAlpha (s : State) (c : StatusCode) :
    (s.complete c).cfgAlpha = s.cfgAlpha := rfl
@[simp] theorem State.complete_actAlpha (s : State) (c : StatusCode) :
    (s.complete c).actAlpha = s.actAlpha := rfl
@[simp] theorem State.complete_pend (s : State) (c : StatusCode) :
    (s.complete c).pend = s.pend := rfl
@[simp] theorem State.complete_encPath (s : State) (c : StatusCode) :
    (s.complete c).encPath = s.encPath := rfl
@[simp] theorem State.complete_decPath (s : State) (c : StatusCode) :
    (s.complete c).decPath = s.decPath := rfl
@[simp] theorem State.complete_readData (s : State) (c : StatusCode) :
    (s.complete c).readData = s.readData := rfl
@[simp] theorem State.complete_schedule (s : State) (c : StatusCode) :
    (s.complete c).schedule = s.schedule := rfl
@[simp] theorem State.complete_draws (s : State) (c : StatusCode) :
    (s.complete c).draws = s.draws := rfl

/-! `writeCtrl` -/

@[simp] theorem State.writeCtrl_ie (s : State) (d : Word) : (s.writeCtrl d).ie = d.getLsbD 0 := rfl
@[simp] theorem State.writeCtrl_busy (s : State) (d : Word) : (s.writeCtrl d).busy = s.busy := rfl
@[simp] theorem State.writeCtrl_done (s : State) (d : Word) : (s.writeCtrl d).done = s.done := rfl
@[simp] theorem State.writeCtrl_cfgValid (s : State) (d : Word) :
    (s.writeCtrl d).cfgValid = s.cfgValid := rfl
@[simp] theorem State.writeCtrl_ovr (s : State) (d : Word) : (s.writeCtrl d).ovr = s.ovr := rfl
@[simp] theorem State.writeCtrl_err (s : State) (d : Word) : (s.writeCtrl d).err = s.err := rfl
@[simp] theorem State.writeCtrl_lastOp (s : State) (d : Word) :
    (s.writeCtrl d).lastOp = s.lastOp := rfl
@[simp] theorem State.writeCtrl_valInLo (s : State) (d : Word) :
    (s.writeCtrl d).valInLo = s.valInLo := rfl
@[simp] theorem State.writeCtrl_valInHi (s : State) (d : Word) :
    (s.writeCtrl d).valInHi = s.valInHi := rfl
@[simp] theorem State.writeCtrl_valOutLo (s : State) (d : Word) :
    (s.writeCtrl d).valOutLo = s.valOutLo := rfl
@[simp] theorem State.writeCtrl_valOutHi (s : State) (d : Word) :
    (s.writeCtrl d).valOutHi = s.valOutHi := rfl
@[simp] theorem State.writeCtrl_decLen (s : State) (d : Word) :
    (s.writeCtrl d).decLen = s.decLen := rfl
@[simp] theorem State.writeCtrl_encLen (s : State) (d : Word) :
    (s.writeCtrl d).encLen = s.encLen := rfl
@[simp] theorem State.writeCtrl_cfgLen (s : State) (d : Word) :
    (s.writeCtrl d).cfgLen = s.cfgLen := rfl
@[simp] theorem State.writeCtrl_decText (s : State) (d : Word) :
    (s.writeCtrl d).decText = s.decText := rfl
@[simp] theorem State.writeCtrl_encText (s : State) (d : Word) :
    (s.writeCtrl d).encText = s.encText := rfl
@[simp] theorem State.writeCtrl_cfgAlpha (s : State) (d : Word) :
    (s.writeCtrl d).cfgAlpha = s.cfgAlpha := rfl
@[simp] theorem State.writeCtrl_actAlpha (s : State) (d : Word) :
    (s.writeCtrl d).actAlpha = s.actAlpha := rfl
@[simp] theorem State.writeCtrl_pend (s : State) (d : Word) : (s.writeCtrl d).pend = s.pend := rfl
@[simp] theorem State.writeCtrl_encPath (s : State) (d : Word) :
    (s.writeCtrl d).encPath = s.encPath := rfl
@[simp] theorem State.writeCtrl_decPath (s : State) (d : Word) :
    (s.writeCtrl d).decPath = s.decPath := rfl
@[simp] theorem State.writeCtrl_readData (s : State) (d : Word) :
    (s.writeCtrl d).readData = s.readData := rfl
@[simp] theorem State.writeCtrl_schedule (s : State) (d : Word) :
    (s.writeCtrl d).schedule = s.schedule := rfl
@[simp] theorem State.writeCtrl_draws (s : State) (d : Word) :
    (s.writeCtrl d).draws = s.draws := rfl

/-! `writeStatus` -/

@[simp] theorem State.writeStatus_ie (s : State) (d : Word) : (s.writeStatus d).ie = s.ie := rfl
@[simp] theorem State.writeStatus_busy (s : State) (d : Word) :
    (s.writeStatus d).busy = s.busy := rfl
@[simp] theorem State.writeStatus_done (s : State) (d : Word) :
    (s.writeStatus d).done = (s.done && !d.getLsbD 1) := rfl
@[simp] theorem State.writeStatus_cfgValid (s : State) (d : Word) :
    (s.writeStatus d).cfgValid = s.cfgValid := rfl
@[simp] theorem State.writeStatus_ovr (s : State) (d : Word) :
    (s.writeStatus d).ovr = (s.ovr && !d.getLsbD 3) := rfl
@[simp] theorem State.writeStatus_err (s : State) (d : Word) : (s.writeStatus d).err = s.err := rfl
@[simp] theorem State.writeStatus_lastOp (s : State) (d : Word) :
    (s.writeStatus d).lastOp = s.lastOp := rfl
@[simp] theorem State.writeStatus_valInLo (s : State) (d : Word) :
    (s.writeStatus d).valInLo = s.valInLo := rfl
@[simp] theorem State.writeStatus_valInHi (s : State) (d : Word) :
    (s.writeStatus d).valInHi = s.valInHi := rfl
@[simp] theorem State.writeStatus_valOutLo (s : State) (d : Word) :
    (s.writeStatus d).valOutLo = s.valOutLo := rfl
@[simp] theorem State.writeStatus_valOutHi (s : State) (d : Word) :
    (s.writeStatus d).valOutHi = s.valOutHi := rfl
@[simp] theorem State.writeStatus_decLen (s : State) (d : Word) :
    (s.writeStatus d).decLen = s.decLen := rfl
@[simp] theorem State.writeStatus_encLen (s : State) (d : Word) :
    (s.writeStatus d).encLen = s.encLen := rfl
@[simp] theorem State.writeStatus_cfgLen (s : State) (d : Word) :
    (s.writeStatus d).cfgLen = s.cfgLen := rfl
@[simp] theorem State.writeStatus_decText (s : State) (d : Word) :
    (s.writeStatus d).decText = s.decText := rfl
@[simp] theorem State.writeStatus_encText (s : State) (d : Word) :
    (s.writeStatus d).encText = s.encText := rfl
@[simp] theorem State.writeStatus_cfgAlpha (s : State) (d : Word) :
    (s.writeStatus d).cfgAlpha = s.cfgAlpha := rfl
@[simp] theorem State.writeStatus_actAlpha (s : State) (d : Word) :
    (s.writeStatus d).actAlpha = s.actAlpha := rfl
@[simp] theorem State.writeStatus_pend (s : State) (d : Word) :
    (s.writeStatus d).pend = s.pend := rfl
@[simp] theorem State.writeStatus_encPath (s : State) (d : Word) :
    (s.writeStatus d).encPath = s.encPath := rfl
@[simp] theorem State.writeStatus_decPath (s : State) (d : Word) :
    (s.writeStatus d).decPath = s.decPath := rfl
@[simp] theorem State.writeStatus_readData (s : State) (d : Word) :
    (s.writeStatus d).readData = s.readData := rfl
@[simp] theorem State.writeStatus_schedule (s : State) (d : Word) :
    (s.writeStatus d).schedule = s.schedule := rfl
@[simp] theorem State.writeStatus_draws (s : State) (d : Word) :
    (s.writeStatus d).draws = s.draws := rfl

/-! `latchRead` -/

@[simp] theorem State.latchRead_ie (s : State) (w : HostIndex) : (s.latchRead w).ie = s.ie := rfl
@[simp] theorem State.latchRead_busy (s : State) (w : HostIndex) :
    (s.latchRead w).busy = s.busy := rfl
@[simp] theorem State.latchRead_done (s : State) (w : HostIndex) :
    (s.latchRead w).done = s.done := rfl
@[simp] theorem State.latchRead_cfgValid (s : State) (w : HostIndex) :
    (s.latchRead w).cfgValid = s.cfgValid := rfl
@[simp] theorem State.latchRead_ovr (s : State) (w : HostIndex) : (s.latchRead w).ovr = s.ovr := rfl
@[simp] theorem State.latchRead_err (s : State) (w : HostIndex) : (s.latchRead w).err = s.err := rfl
@[simp] theorem State.latchRead_lastOp (s : State) (w : HostIndex) :
    (s.latchRead w).lastOp = s.lastOp := rfl
@[simp] theorem State.latchRead_valInLo (s : State) (w : HostIndex) :
    (s.latchRead w).valInLo = s.valInLo := rfl
@[simp] theorem State.latchRead_valInHi (s : State) (w : HostIndex) :
    (s.latchRead w).valInHi = s.valInHi := rfl
@[simp] theorem State.latchRead_valOutLo (s : State) (w : HostIndex) :
    (s.latchRead w).valOutLo = s.valOutLo := rfl
@[simp] theorem State.latchRead_valOutHi (s : State) (w : HostIndex) :
    (s.latchRead w).valOutHi = s.valOutHi := rfl
@[simp] theorem State.latchRead_decLen (s : State) (w : HostIndex) :
    (s.latchRead w).decLen = s.decLen := rfl
@[simp] theorem State.latchRead_encLen (s : State) (w : HostIndex) :
    (s.latchRead w).encLen = s.encLen := rfl
@[simp] theorem State.latchRead_cfgLen (s : State) (w : HostIndex) :
    (s.latchRead w).cfgLen = s.cfgLen := rfl
@[simp] theorem State.latchRead_decText (s : State) (w : HostIndex) :
    (s.latchRead w).decText = s.decText := rfl
@[simp] theorem State.latchRead_encText (s : State) (w : HostIndex) :
    (s.latchRead w).encText = s.encText := rfl
@[simp] theorem State.latchRead_cfgAlpha (s : State) (w : HostIndex) :
    (s.latchRead w).cfgAlpha = s.cfgAlpha := rfl
@[simp] theorem State.latchRead_actAlpha (s : State) (w : HostIndex) :
    (s.latchRead w).actAlpha = s.actAlpha := rfl
@[simp] theorem State.latchRead_pend (s : State) (w : HostIndex) :
    (s.latchRead w).pend = s.pend := rfl
@[simp] theorem State.latchRead_encPath (s : State) (w : HostIndex) :
    (s.latchRead w).encPath = s.encPath := rfl
@[simp] theorem State.latchRead_decPath (s : State) (w : HostIndex) :
    (s.latchRead w).decPath = s.decPath := rfl
@[simp] theorem State.latchRead_readData (s : State) (w : HostIndex) :
    (s.latchRead w).readData = hostRead s w := rfl
@[simp] theorem State.latchRead_schedule (s : State) (w : HostIndex) :
    (s.latchRead w).schedule = s.schedule := rfl
@[simp] theorem State.latchRead_draws (s : State) (w : HostIndex) :
    (s.latchRead w).draws = s.draws := rfl

/-! `applyReset` -/

@[simp] theorem State.applyReset_ie (s : State) : (s.applyReset).ie = State.reset.ie := rfl
@[simp] theorem State.applyReset_busy (s : State) : (s.applyReset).busy = State.reset.busy := rfl
@[simp] theorem State.applyReset_done (s : State) : (s.applyReset).done = State.reset.done := rfl
@[simp] theorem State.applyReset_cfgValid (s : State) :
    (s.applyReset).cfgValid = State.reset.cfgValid := rfl
@[simp] theorem State.applyReset_ovr (s : State) : (s.applyReset).ovr = State.reset.ovr := rfl
@[simp] theorem State.applyReset_err (s : State) : (s.applyReset).err = State.reset.err := rfl
@[simp] theorem State.applyReset_lastOp (s : State) :
    (s.applyReset).lastOp = State.reset.lastOp := rfl
@[simp] theorem State.applyReset_valInLo (s : State) :
    (s.applyReset).valInLo = State.reset.valInLo := rfl
@[simp] theorem State.applyReset_valInHi (s : State) :
    (s.applyReset).valInHi = State.reset.valInHi := rfl
@[simp] theorem State.applyReset_valOutLo (s : State) :
    (s.applyReset).valOutLo = State.reset.valOutLo := rfl
@[simp] theorem State.applyReset_valOutHi (s : State) :
    (s.applyReset).valOutHi = State.reset.valOutHi := rfl
@[simp] theorem State.applyReset_decLen (s : State) :
    (s.applyReset).decLen = State.reset.decLen := rfl
@[simp] theorem State.applyReset_encLen (s : State) :
    (s.applyReset).encLen = State.reset.encLen := rfl
@[simp] theorem State.applyReset_cfgLen (s : State) :
    (s.applyReset).cfgLen = State.reset.cfgLen := rfl
@[simp] theorem State.applyReset_decText (s : State) :
    (s.applyReset).decText = State.reset.decText := rfl
@[simp] theorem State.applyReset_encText (s : State) :
    (s.applyReset).encText = State.reset.encText := rfl
@[simp] theorem State.applyReset_cfgAlpha (s : State) :
    (s.applyReset).cfgAlpha = State.reset.cfgAlpha := rfl
@[simp] theorem State.applyReset_actAlpha (s : State) :
    (s.applyReset).actAlpha = State.reset.actAlpha := rfl
@[simp] theorem State.applyReset_pend (s : State) : (s.applyReset).pend = State.reset.pend := rfl
@[simp] theorem State.applyReset_encPath (s : State) :
    (s.applyReset).encPath = State.reset.encPath := rfl
@[simp] theorem State.applyReset_decPath (s : State) :
    (s.applyReset).decPath = State.reset.decPath := rfl
@[simp] theorem State.applyReset_readData (s : State) : (s.applyReset).readData = s.readData := rfl
@[simp] theorem State.applyReset_schedule (s : State) : (s.applyReset).schedule = s.schedule := rfl
@[simp] theorem State.applyReset_draws (s : State) : (s.applyReset).draws = s.draws := rfl

/-! `popTurn` -/

@[simp] theorem State.popTurn_ie (s : State) : (s.popTurn).ie = s.ie := rfl
@[simp] theorem State.popTurn_busy (s : State) : (s.popTurn).busy = s.busy := rfl
@[simp] theorem State.popTurn_done (s : State) : (s.popTurn).done = s.done := rfl
@[simp] theorem State.popTurn_cfgValid (s : State) : (s.popTurn).cfgValid = s.cfgValid := rfl
@[simp] theorem State.popTurn_ovr (s : State) : (s.popTurn).ovr = s.ovr := rfl
@[simp] theorem State.popTurn_err (s : State) : (s.popTurn).err = s.err := rfl
@[simp] theorem State.popTurn_lastOp (s : State) : (s.popTurn).lastOp = s.lastOp := rfl
@[simp] theorem State.popTurn_valInLo (s : State) : (s.popTurn).valInLo = s.valInLo := rfl
@[simp] theorem State.popTurn_valInHi (s : State) : (s.popTurn).valInHi = s.valInHi := rfl
@[simp] theorem State.popTurn_valOutLo (s : State) : (s.popTurn).valOutLo = s.valOutLo := rfl
@[simp] theorem State.popTurn_valOutHi (s : State) : (s.popTurn).valOutHi = s.valOutHi := rfl
@[simp] theorem State.popTurn_decLen (s : State) : (s.popTurn).decLen = s.decLen := rfl
@[simp] theorem State.popTurn_encLen (s : State) : (s.popTurn).encLen = s.encLen := rfl
@[simp] theorem State.popTurn_cfgLen (s : State) : (s.popTurn).cfgLen = s.cfgLen := rfl
@[simp] theorem State.popTurn_decText (s : State) : (s.popTurn).decText = s.decText := rfl
@[simp] theorem State.popTurn_encText (s : State) : (s.popTurn).encText = s.encText := rfl
@[simp] theorem State.popTurn_cfgAlpha (s : State) : (s.popTurn).cfgAlpha = s.cfgAlpha := rfl
@[simp] theorem State.popTurn_actAlpha (s : State) : (s.popTurn).actAlpha = s.actAlpha := rfl
@[simp] theorem State.popTurn_pend (s : State) : (s.popTurn).pend = s.pend := rfl
@[simp] theorem State.popTurn_encPath (s : State) : (s.popTurn).encPath = s.encPath := rfl
@[simp] theorem State.popTurn_decPath (s : State) : (s.popTurn).decPath = s.decPath := rfl
@[simp] theorem State.popTurn_readData (s : State) : (s.popTurn).readData = s.readData := rfl
@[simp] theorem State.popTurn_schedule (s : State) : (s.popTurn).schedule = s.schedule.tail := rfl
@[simp] theorem State.popTurn_draws (s : State) : (s.popTurn).draws = s.draws := rfl

/-! `invalidateCodec` -/

@[simp] theorem State.invalidateCodec_ie (s : State) : (s.invalidateCodec).ie = s.ie := rfl
@[simp] theorem State.invalidateCodec_busy (s : State) : (s.invalidateCodec).busy = s.busy := rfl
@[simp] theorem State.invalidateCodec_done (s : State) : (s.invalidateCodec).done = s.done := rfl
@[simp] theorem State.invalidateCodec_cfgValid (s : State) :
    (s.invalidateCodec).cfgValid = false := rfl
@[simp] theorem State.invalidateCodec_ovr (s : State) : (s.invalidateCodec).ovr = s.ovr := rfl
@[simp] theorem State.invalidateCodec_err (s : State) : (s.invalidateCodec).err = s.err := rfl
@[simp] theorem State.invalidateCodec_lastOp (s : State) :
    (s.invalidateCodec).lastOp = s.lastOp := rfl
@[simp] theorem State.invalidateCodec_valInLo (s : State) :
    (s.invalidateCodec).valInLo = s.valInLo := rfl
@[simp] theorem State.invalidateCodec_valInHi (s : State) :
    (s.invalidateCodec).valInHi = s.valInHi := rfl
@[simp] theorem State.invalidateCodec_valOutLo (s : State) :
    (s.invalidateCodec).valOutLo = s.valOutLo := rfl
@[simp] theorem State.invalidateCodec_valOutHi (s : State) :
    (s.invalidateCodec).valOutHi = s.valOutHi := rfl
@[simp] theorem State.invalidateCodec_decLen (s : State) :
    (s.invalidateCodec).decLen = s.decLen := rfl
@[simp] theorem State.invalidateCodec_encLen (s : State) :
    (s.invalidateCodec).encLen = s.encLen := rfl
@[simp] theorem State.invalidateCodec_cfgLen (s : State) :
    (s.invalidateCodec).cfgLen = s.cfgLen := rfl
@[simp] theorem State.invalidateCodec_decText (s : State) :
    (s.invalidateCodec).decText = s.decText := rfl
@[simp] theorem State.invalidateCodec_encText (s : State) :
    (s.invalidateCodec).encText = s.encText := rfl
@[simp] theorem State.invalidateCodec_cfgAlpha (s : State) :
    (s.invalidateCodec).cfgAlpha = s.cfgAlpha := rfl
@[simp] theorem State.invalidateCodec_actAlpha (s : State) :
    (s.invalidateCodec).actAlpha = s.actAlpha := rfl
@[simp] theorem State.invalidateCodec_pend (s : State) : (s.invalidateCodec).pend = s.pend := rfl
@[simp] theorem State.invalidateCodec_encPath (s : State) :
    (s.invalidateCodec).encPath = s.encPath := rfl
@[simp] theorem State.invalidateCodec_decPath (s : State) :
    (s.invalidateCodec).decPath = s.decPath := rfl
@[simp] theorem State.invalidateCodec_readData (s : State) :
    (s.invalidateCodec).readData = s.readData := rfl
@[simp] theorem State.invalidateCodec_schedule (s : State) :
    (s.invalidateCodec).schedule = s.schedule := rfl
@[simp] theorem State.invalidateCodec_draws (s : State) : (s.invalidateCodec).draws = s.draws := rfl

/-! `installAlphabet` -/

@[simp] theorem State.installAlphabet_ie (s : State) : (s.installAlphabet).ie = s.ie := rfl
@[simp] theorem State.installAlphabet_busy (s : State) : (s.installAlphabet).busy = s.busy := rfl
@[simp] theorem State.installAlphabet_done (s : State) : (s.installAlphabet).done = s.done := rfl
@[simp] theorem State.installAlphabet_cfgValid (s : State) :
    (s.installAlphabet).cfgValid = true := rfl
@[simp] theorem State.installAlphabet_ovr (s : State) : (s.installAlphabet).ovr = s.ovr := rfl
@[simp] theorem State.installAlphabet_err (s : State) : (s.installAlphabet).err = s.err := rfl
@[simp] theorem State.installAlphabet_lastOp (s : State) :
    (s.installAlphabet).lastOp = s.lastOp := rfl
@[simp] theorem State.installAlphabet_valInLo (s : State) :
    (s.installAlphabet).valInLo = s.valInLo := rfl
@[simp] theorem State.installAlphabet_valInHi (s : State) :
    (s.installAlphabet).valInHi = s.valInHi := rfl
@[simp] theorem State.installAlphabet_valOutLo (s : State) :
    (s.installAlphabet).valOutLo = s.valOutLo := rfl
@[simp] theorem State.installAlphabet_valOutHi (s : State) :
    (s.installAlphabet).valOutHi = s.valOutHi := rfl
@[simp] theorem State.installAlphabet_decLen (s : State) :
    (s.installAlphabet).decLen = s.decLen := rfl
@[simp] theorem State.installAlphabet_encLen (s : State) :
    (s.installAlphabet).encLen = s.encLen := rfl
@[simp] theorem State.installAlphabet_cfgLen (s : State) :
    (s.installAlphabet).cfgLen = s.cfgLen := rfl
@[simp] theorem State.installAlphabet_decText (s : State) :
    (s.installAlphabet).decText = s.decText := rfl
@[simp] theorem State.installAlphabet_encText (s : State) :
    (s.installAlphabet).encText = s.encText := rfl
@[simp] theorem State.installAlphabet_cfgAlpha (s : State) :
    (s.installAlphabet).cfgAlpha = s.cfgAlpha := rfl
@[simp] theorem State.installAlphabet_actAlpha (s : State) :
    (s.installAlphabet).actAlpha = s.cfgAlpha := rfl
@[simp] theorem State.installAlphabet_pend (s : State) : (s.installAlphabet).pend = s.pend := rfl
@[simp] theorem State.installAlphabet_encPath (s : State) :
    (s.installAlphabet).encPath = s.encPath := rfl
@[simp] theorem State.installAlphabet_decPath (s : State) :
    (s.installAlphabet).decPath = s.decPath := rfl
@[simp] theorem State.installAlphabet_readData (s : State) :
    (s.installAlphabet).readData = s.readData := rfl
@[simp] theorem State.installAlphabet_schedule (s : State) :
    (s.installAlphabet).schedule = s.schedule := rfl
@[simp] theorem State.installAlphabet_draws (s : State) : (s.installAlphabet).draws = s.draws := rfl

/-! `putEncodeResult` -/

@[simp] theorem State.putEncodeResult_ie (s : State) (str : List Byte) :
    (s.putEncodeResult str).ie = s.ie := rfl
@[simp] theorem State.putEncodeResult_busy (s : State) (str : List Byte) :
    (s.putEncodeResult str).busy = s.busy := rfl
@[simp] theorem State.putEncodeResult_done (s : State) (str : List Byte) :
    (s.putEncodeResult str).done = s.done := rfl
@[simp] theorem State.putEncodeResult_cfgValid (s : State) (str : List Byte) :
    (s.putEncodeResult str).cfgValid = s.cfgValid := rfl
@[simp] theorem State.putEncodeResult_ovr (s : State) (str : List Byte) :
    (s.putEncodeResult str).ovr = s.ovr := rfl
@[simp] theorem State.putEncodeResult_err (s : State) (str : List Byte) :
    (s.putEncodeResult str).err = s.err := rfl
@[simp] theorem State.putEncodeResult_lastOp (s : State) (str : List Byte) :
    (s.putEncodeResult str).lastOp = s.lastOp := rfl
@[simp] theorem State.putEncodeResult_valInLo (s : State) (str : List Byte) :
    (s.putEncodeResult str).valInLo = s.valInLo := rfl
@[simp] theorem State.putEncodeResult_valInHi (s : State) (str : List Byte) :
    (s.putEncodeResult str).valInHi = s.valInHi := rfl
@[simp] theorem State.putEncodeResult_valOutLo (s : State) (str : List Byte) :
    (s.putEncodeResult str).valOutLo = s.valOutLo := rfl
@[simp] theorem State.putEncodeResult_valOutHi (s : State) (str : List Byte) :
    (s.putEncodeResult str).valOutHi = s.valOutHi := rfl
@[simp] theorem State.putEncodeResult_decLen (s : State) (str : List Byte) :
    (s.putEncodeResult str).decLen = s.decLen := rfl
@[simp] theorem State.putEncodeResult_encLen (s : State) (str : List Byte) :
    (s.putEncodeResult str).encLen = BitVec.ofNat 5 str.length := rfl
@[simp] theorem State.putEncodeResult_cfgLen (s : State) (str : List Byte) :
    (s.putEncodeResult str).cfgLen = s.cfgLen := rfl
@[simp] theorem State.putEncodeResult_decText (s : State) (str : List Byte) :
    (s.putEncodeResult str).decText = s.decText := rfl
@[simp] theorem State.putEncodeResult_encText (s : State) (str : List Byte) :
    (s.putEncodeResult str).encText = bufferOf 16 str := rfl
@[simp] theorem State.putEncodeResult_cfgAlpha (s : State) (str : List Byte) :
    (s.putEncodeResult str).cfgAlpha = s.cfgAlpha := rfl
@[simp] theorem State.putEncodeResult_actAlpha (s : State) (str : List Byte) :
    (s.putEncodeResult str).actAlpha = s.actAlpha := rfl
@[simp] theorem State.putEncodeResult_pend (s : State) (str : List Byte) :
    (s.putEncodeResult str).pend = s.pend := rfl
@[simp] theorem State.putEncodeResult_encPath (s : State) (str : List Byte) :
    (s.putEncodeResult str).encPath = s.encPath := rfl
@[simp] theorem State.putEncodeResult_decPath (s : State) (str : List Byte) :
    (s.putEncodeResult str).decPath = s.decPath := rfl
@[simp] theorem State.putEncodeResult_readData (s : State) (str : List Byte) :
    (s.putEncodeResult str).readData = s.readData := rfl
@[simp] theorem State.putEncodeResult_schedule (s : State) (str : List Byte) :
    (s.putEncodeResult str).schedule = s.schedule := rfl
@[simp] theorem State.putEncodeResult_draws (s : State) (str : List Byte) :
    (s.putEncodeResult str).draws = s.draws := rfl

/-! `putDecodeResult` -/

@[simp] theorem State.putDecodeResult_ie (s : State) (x : BitVec 64) :
    (s.putDecodeResult x).ie = s.ie := rfl
@[simp] theorem State.putDecodeResult_busy (s : State) (x : BitVec 64) :
    (s.putDecodeResult x).busy = s.busy := rfl
@[simp] theorem State.putDecodeResult_done (s : State) (x : BitVec 64) :
    (s.putDecodeResult x).done = s.done := rfl
@[simp] theorem State.putDecodeResult_cfgValid (s : State) (x : BitVec 64) :
    (s.putDecodeResult x).cfgValid = s.cfgValid := rfl
@[simp] theorem State.putDecodeResult_ovr (s : State) (x : BitVec 64) :
    (s.putDecodeResult x).ovr = s.ovr := rfl
@[simp] theorem State.putDecodeResult_err (s : State) (x : BitVec 64) :
    (s.putDecodeResult x).err = s.err := rfl
@[simp] theorem State.putDecodeResult_lastOp (s : State) (x : BitVec 64) :
    (s.putDecodeResult x).lastOp = s.lastOp := rfl
@[simp] theorem State.putDecodeResult_valInLo (s : State) (x : BitVec 64) :
    (s.putDecodeResult x).valInLo = s.valInLo := rfl
@[simp] theorem State.putDecodeResult_valInHi (s : State) (x : BitVec 64) :
    (s.putDecodeResult x).valInHi = s.valInHi := rfl
@[simp] theorem State.putDecodeResult_valOutLo (s : State) (x : BitVec 64) :
    (s.putDecodeResult x).valOutLo = loHalf x := rfl
@[simp] theorem State.putDecodeResult_valOutHi (s : State) (x : BitVec 64) :
    (s.putDecodeResult x).valOutHi = hiHalf x := rfl
@[simp] theorem State.putDecodeResult_decLen (s : State) (x : BitVec 64) :
    (s.putDecodeResult x).decLen = s.decLen := rfl
@[simp] theorem State.putDecodeResult_encLen (s : State) (x : BitVec 64) :
    (s.putDecodeResult x).encLen = s.encLen := rfl
@[simp] theorem State.putDecodeResult_cfgLen (s : State) (x : BitVec 64) :
    (s.putDecodeResult x).cfgLen = s.cfgLen := rfl
@[simp] theorem State.putDecodeResult_decText (s : State) (x : BitVec 64) :
    (s.putDecodeResult x).decText = s.decText := rfl
@[simp] theorem State.putDecodeResult_encText (s : State) (x : BitVec 64) :
    (s.putDecodeResult x).encText = s.encText := rfl
@[simp] theorem State.putDecodeResult_cfgAlpha (s : State) (x : BitVec 64) :
    (s.putDecodeResult x).cfgAlpha = s.cfgAlpha := rfl
@[simp] theorem State.putDecodeResult_actAlpha (s : State) (x : BitVec 64) :
    (s.putDecodeResult x).actAlpha = s.actAlpha := rfl
@[simp] theorem State.putDecodeResult_pend (s : State) (x : BitVec 64) :
    (s.putDecodeResult x).pend = s.pend := rfl
@[simp] theorem State.putDecodeResult_encPath (s : State) (x : BitVec 64) :
    (s.putDecodeResult x).encPath = s.encPath := rfl
@[simp] theorem State.putDecodeResult_decPath (s : State) (x : BitVec 64) :
    (s.putDecodeResult x).decPath = s.decPath := rfl
@[simp] theorem State.putDecodeResult_readData (s : State) (x : BitVec 64) :
    (s.putDecodeResult x).readData = s.readData := rfl
@[simp] theorem State.putDecodeResult_schedule (s : State) (x : BitVec 64) :
    (s.putDecodeResult x).schedule = s.schedule := rfl
@[simp] theorem State.putDecodeResult_draws (s : State) (x : BitVec 64) :
    (s.putDecodeResult x).draws = s.draws := rfl

/-! `releaseEncodePath` -/

@[simp] theorem State.releaseEncodePath_ie (s : State) : (s.releaseEncodePath).ie = s.ie := rfl
@[simp] theorem State.releaseEncodePath_busy (s : State) :
    (s.releaseEncodePath).busy = s.busy := rfl
@[simp] theorem State.releaseEncodePath_done (s : State) :
    (s.releaseEncodePath).done = s.done := rfl
@[simp] theorem State.releaseEncodePath_cfgValid (s : State) :
    (s.releaseEncodePath).cfgValid = s.cfgValid := rfl
@[simp] theorem State.releaseEncodePath_ovr (s : State) : (s.releaseEncodePath).ovr = s.ovr := rfl
@[simp] theorem State.releaseEncodePath_err (s : State) : (s.releaseEncodePath).err = s.err := rfl
@[simp] theorem State.releaseEncodePath_lastOp (s : State) :
    (s.releaseEncodePath).lastOp = s.lastOp := rfl
@[simp] theorem State.releaseEncodePath_valInLo (s : State) :
    (s.releaseEncodePath).valInLo = s.valInLo := rfl
@[simp] theorem State.releaseEncodePath_valInHi (s : State) :
    (s.releaseEncodePath).valInHi = s.valInHi := rfl
@[simp] theorem State.releaseEncodePath_valOutLo (s : State) :
    (s.releaseEncodePath).valOutLo = s.valOutLo := rfl
@[simp] theorem State.releaseEncodePath_valOutHi (s : State) :
    (s.releaseEncodePath).valOutHi = s.valOutHi := rfl
@[simp] theorem State.releaseEncodePath_decLen (s : State) :
    (s.releaseEncodePath).decLen = s.decLen := rfl
@[simp] theorem State.releaseEncodePath_encLen (s : State) :
    (s.releaseEncodePath).encLen = s.encLen := rfl
@[simp] theorem State.releaseEncodePath_cfgLen (s : State) :
    (s.releaseEncodePath).cfgLen = s.cfgLen := rfl
@[simp] theorem State.releaseEncodePath_decText (s : State) :
    (s.releaseEncodePath).decText = s.decText := rfl
@[simp] theorem State.releaseEncodePath_encText (s : State) :
    (s.releaseEncodePath).encText = s.encText := rfl
@[simp] theorem State.releaseEncodePath_cfgAlpha (s : State) :
    (s.releaseEncodePath).cfgAlpha = s.cfgAlpha := rfl
@[simp] theorem State.releaseEncodePath_actAlpha (s : State) :
    (s.releaseEncodePath).actAlpha = s.actAlpha := rfl
@[simp] theorem State.releaseEncodePath_pend (s : State) :
    (s.releaseEncodePath).pend = s.pend := rfl
@[simp] theorem State.releaseEncodePath_encPath (s : State) :
    (s.releaseEncodePath).encPath = ⟨Config.freeEncodeNeg s.draws, Config.freeMag s.draws, Config.freeDcnt s.draws, Config.freeDbuf s.draws⟩ := rfl
@[simp] theorem State.releaseEncodePath_decPath (s : State) :
    (s.releaseEncodePath).decPath = s.decPath := rfl
@[simp] theorem State.releaseEncodePath_readData (s : State) :
    (s.releaseEncodePath).readData = s.readData := rfl
@[simp] theorem State.releaseEncodePath_schedule (s : State) :
    (s.releaseEncodePath).schedule = s.schedule := rfl
@[simp] theorem State.releaseEncodePath_draws (s : State) :
    (s.releaseEncodePath).draws = s.draws + 1 := rfl

/-! `releaseDecodePath` -/

@[simp] theorem State.releaseDecodePath_ie (s : State) : (s.releaseDecodePath).ie = s.ie := rfl
@[simp] theorem State.releaseDecodePath_busy (s : State) :
    (s.releaseDecodePath).busy = s.busy := rfl
@[simp] theorem State.releaseDecodePath_done (s : State) :
    (s.releaseDecodePath).done = s.done := rfl
@[simp] theorem State.releaseDecodePath_cfgValid (s : State) :
    (s.releaseDecodePath).cfgValid = s.cfgValid := rfl
@[simp] theorem State.releaseDecodePath_ovr (s : State) : (s.releaseDecodePath).ovr = s.ovr := rfl
@[simp] theorem State.releaseDecodePath_err (s : State) : (s.releaseDecodePath).err = s.err := rfl
@[simp] theorem State.releaseDecodePath_lastOp (s : State) :
    (s.releaseDecodePath).lastOp = s.lastOp := rfl
@[simp] theorem State.releaseDecodePath_valInLo (s : State) :
    (s.releaseDecodePath).valInLo = s.valInLo := rfl
@[simp] theorem State.releaseDecodePath_valInHi (s : State) :
    (s.releaseDecodePath).valInHi = s.valInHi := rfl
@[simp] theorem State.releaseDecodePath_valOutLo (s : State) :
    (s.releaseDecodePath).valOutLo = s.valOutLo := rfl
@[simp] theorem State.releaseDecodePath_valOutHi (s : State) :
    (s.releaseDecodePath).valOutHi = s.valOutHi := rfl
@[simp] theorem State.releaseDecodePath_decLen (s : State) :
    (s.releaseDecodePath).decLen = s.decLen := rfl
@[simp] theorem State.releaseDecodePath_encLen (s : State) :
    (s.releaseDecodePath).encLen = s.encLen := rfl
@[simp] theorem State.releaseDecodePath_cfgLen (s : State) :
    (s.releaseDecodePath).cfgLen = s.cfgLen := rfl
@[simp] theorem State.releaseDecodePath_decText (s : State) :
    (s.releaseDecodePath).decText = s.decText := rfl
@[simp] theorem State.releaseDecodePath_encText (s : State) :
    (s.releaseDecodePath).encText = s.encText := rfl
@[simp] theorem State.releaseDecodePath_cfgAlpha (s : State) :
    (s.releaseDecodePath).cfgAlpha = s.cfgAlpha := rfl
@[simp] theorem State.releaseDecodePath_actAlpha (s : State) :
    (s.releaseDecodePath).actAlpha = s.actAlpha := rfl
@[simp] theorem State.releaseDecodePath_pend (s : State) :
    (s.releaseDecodePath).pend = s.pend := rfl
@[simp] theorem State.releaseDecodePath_encPath (s : State) :
    (s.releaseDecodePath).encPath = s.encPath := rfl
@[simp] theorem State.releaseDecodePath_decPath (s : State) :
    (s.releaseDecodePath).decPath = ⟨Config.freeDecodeNeg s.draws, Config.freeStart s.draws, Config.freeN s.draws, Config.freeIdx s.draws, Config.freeAcc s.draws, Config.freeBad s.draws⟩ := rfl
@[simp] theorem State.releaseDecodePath_readData (s : State) :
    (s.releaseDecodePath).readData = s.readData := rfl
@[simp] theorem State.releaseDecodePath_schedule (s : State) :
    (s.releaseDecodePath).schedule = s.schedule := rfl
@[simp] theorem State.releaseDecodePath_draws (s : State) :
    (s.releaseDecodePath).draws = s.draws + 1 := rfl

/-! `finishEncode` -/

@[simp] theorem finishEncode_ie (s : State) (str : List Byte) (c : StatusCode) :
    (finishEncode s str c).ie = s.ie := rfl
@[simp] theorem finishEncode_busy (s : State) (str : List Byte) (c : StatusCode) :
    (finishEncode s str c).busy = false := rfl
@[simp] theorem finishEncode_done (s : State) (str : List Byte) (c : StatusCode) :
    (finishEncode s str c).done = true := rfl
@[simp] theorem finishEncode_cfgValid (s : State) (str : List Byte) (c : StatusCode) :
    (finishEncode s str c).cfgValid = s.cfgValid := rfl
@[simp] theorem finishEncode_ovr (s : State) (str : List Byte) (c : StatusCode) :
    (finishEncode s str c).ovr = s.ovr := rfl
@[simp] theorem finishEncode_err (s : State) (str : List Byte) (c : StatusCode) :
    (finishEncode s str c).err = c := rfl
@[simp] theorem finishEncode_lastOp (s : State) (str : List Byte) (c : StatusCode) :
    (finishEncode s str c).lastOp = opField s.pend := rfl
@[simp] theorem finishEncode_valInLo (s : State) (str : List Byte) (c : StatusCode) :
    (finishEncode s str c).valInLo = s.valInLo := rfl
@[simp] theorem finishEncode_valInHi (s : State) (str : List Byte) (c : StatusCode) :
    (finishEncode s str c).valInHi = s.valInHi := rfl
@[simp] theorem finishEncode_valOutLo (s : State) (str : List Byte) (c : StatusCode) :
    (finishEncode s str c).valOutLo = s.valOutLo := rfl
@[simp] theorem finishEncode_valOutHi (s : State) (str : List Byte) (c : StatusCode) :
    (finishEncode s str c).valOutHi = s.valOutHi := rfl
@[simp] theorem finishEncode_decLen (s : State) (str : List Byte) (c : StatusCode) :
    (finishEncode s str c).decLen = s.decLen := rfl
@[simp] theorem finishEncode_encLen (s : State) (str : List Byte) (c : StatusCode) :
    (finishEncode s str c).encLen = BitVec.ofNat 5 str.length := rfl
@[simp] theorem finishEncode_cfgLen (s : State) (str : List Byte) (c : StatusCode) :
    (finishEncode s str c).cfgLen = s.cfgLen := rfl
@[simp] theorem finishEncode_decText (s : State) (str : List Byte) (c : StatusCode) :
    (finishEncode s str c).decText = s.decText := rfl
@[simp] theorem finishEncode_encText (s : State) (str : List Byte) (c : StatusCode) :
    (finishEncode s str c).encText = bufferOf 16 str := rfl
@[simp] theorem finishEncode_cfgAlpha (s : State) (str : List Byte) (c : StatusCode) :
    (finishEncode s str c).cfgAlpha = s.cfgAlpha := rfl
@[simp] theorem finishEncode_actAlpha (s : State) (str : List Byte) (c : StatusCode) :
    (finishEncode s str c).actAlpha = s.actAlpha := rfl
@[simp] theorem finishEncode_pend (s : State) (str : List Byte) (c : StatusCode) :
    (finishEncode s str c).pend = s.pend := rfl
@[simp] theorem finishEncode_encPath (s : State) (str : List Byte) (c : StatusCode) :
    (finishEncode s str c).encPath = ⟨Config.freeEncodeNeg s.draws, Config.freeMag s.draws, Config.freeDcnt s.draws, Config.freeDbuf s.draws⟩ := rfl
@[simp] theorem finishEncode_decPath (s : State) (str : List Byte) (c : StatusCode) :
    (finishEncode s str c).decPath = s.decPath := rfl
@[simp] theorem finishEncode_readData (s : State) (str : List Byte) (c : StatusCode) :
    (finishEncode s str c).readData = s.readData := rfl
@[simp] theorem finishEncode_schedule (s : State) (str : List Byte) (c : StatusCode) :
    (finishEncode s str c).schedule = s.schedule := rfl
@[simp] theorem finishEncode_draws (s : State) (str : List Byte) (c : StatusCode) :
    (finishEncode s str c).draws = s.draws + 1 := rfl

/-! `finishDecode` -/

@[simp] theorem finishDecode_ie (s : State) (x : BitVec 64) (c : StatusCode) :
    (finishDecode s x c).ie = s.ie := rfl
@[simp] theorem finishDecode_busy (s : State) (x : BitVec 64) (c : StatusCode) :
    (finishDecode s x c).busy = false := rfl
@[simp] theorem finishDecode_done (s : State) (x : BitVec 64) (c : StatusCode) :
    (finishDecode s x c).done = true := rfl
@[simp] theorem finishDecode_cfgValid (s : State) (x : BitVec 64) (c : StatusCode) :
    (finishDecode s x c).cfgValid = s.cfgValid := rfl
@[simp] theorem finishDecode_ovr (s : State) (x : BitVec 64) (c : StatusCode) :
    (finishDecode s x c).ovr = s.ovr := rfl
@[simp] theorem finishDecode_err (s : State) (x : BitVec 64) (c : StatusCode) :
    (finishDecode s x c).err = c := rfl
@[simp] theorem finishDecode_lastOp (s : State) (x : BitVec 64) (c : StatusCode) :
    (finishDecode s x c).lastOp = opField s.pend := rfl
@[simp] theorem finishDecode_valInLo (s : State) (x : BitVec 64) (c : StatusCode) :
    (finishDecode s x c).valInLo = s.valInLo := rfl
@[simp] theorem finishDecode_valInHi (s : State) (x : BitVec 64) (c : StatusCode) :
    (finishDecode s x c).valInHi = s.valInHi := rfl
@[simp] theorem finishDecode_valOutLo (s : State) (x : BitVec 64) (c : StatusCode) :
    (finishDecode s x c).valOutLo = loHalf x := rfl
@[simp] theorem finishDecode_valOutHi (s : State) (x : BitVec 64) (c : StatusCode) :
    (finishDecode s x c).valOutHi = hiHalf x := rfl
@[simp] theorem finishDecode_decLen (s : State) (x : BitVec 64) (c : StatusCode) :
    (finishDecode s x c).decLen = s.decLen := rfl
@[simp] theorem finishDecode_encLen (s : State) (x : BitVec 64) (c : StatusCode) :
    (finishDecode s x c).encLen = s.encLen := rfl
@[simp] theorem finishDecode_cfgLen (s : State) (x : BitVec 64) (c : StatusCode) :
    (finishDecode s x c).cfgLen = s.cfgLen := rfl
@[simp] theorem finishDecode_decText (s : State) (x : BitVec 64) (c : StatusCode) :
    (finishDecode s x c).decText = s.decText := rfl
@[simp] theorem finishDecode_encText (s : State) (x : BitVec 64) (c : StatusCode) :
    (finishDecode s x c).encText = s.encText := rfl
@[simp] theorem finishDecode_cfgAlpha (s : State) (x : BitVec 64) (c : StatusCode) :
    (finishDecode s x c).cfgAlpha = s.cfgAlpha := rfl
@[simp] theorem finishDecode_actAlpha (s : State) (x : BitVec 64) (c : StatusCode) :
    (finishDecode s x c).actAlpha = s.actAlpha := rfl
@[simp] theorem finishDecode_pend (s : State) (x : BitVec 64) (c : StatusCode) :
    (finishDecode s x c).pend = s.pend := rfl
@[simp] theorem finishDecode_encPath (s : State) (x : BitVec 64) (c : StatusCode) :
    (finishDecode s x c).encPath = s.encPath := rfl
@[simp] theorem finishDecode_decPath (s : State) (x : BitVec 64) (c : StatusCode) :
    (finishDecode s x c).decPath = ⟨Config.freeDecodeNeg s.draws, Config.freeStart s.draws, Config.freeN s.draws, Config.freeIdx s.draws, Config.freeAcc s.draws, Config.freeBad s.draws⟩ := rfl
@[simp] theorem finishDecode_readData (s : State) (x : BitVec 64) (c : StatusCode) :
    (finishDecode s x c).readData = s.readData := rfl
@[simp] theorem finishDecode_schedule (s : State) (x : BitVec 64) (c : StatusCode) :
    (finishDecode s x c).schedule = s.schedule := rfl
@[simp] theorem finishDecode_draws (s : State) (x : BitVec 64) (c : StatusCode) :
    (finishDecode s x c).draws = s.draws + 1 := rfl

end Sys2Proof.Machine
end

