-- ==== Sys2Proof/Laws/Exec.lean ====
section
/-! SUPPORT. What each meaning can do, said once: the shape of the state a command completes in. -/

namespace Sys2Proof.Machine

/-- CONFIG completes in one of three ways (41_construction.md R120). -/
theorem execConfig_cases (s : State) :
    (s.cfgLen ≠ 36 ∧ execConfig s = .next (s.invalidateCodec.complete .alphabetLength))
      ∨ (s.cfgLen = 36 ∧ ¬ s.cfgAlpha.toList.Nodup
          ∧ execConfig s = .next (s.invalidateCodec.complete .alphabetDuplicate))
      ∨ (alphabetAccepted s ∧ execConfig s = .next (s.installAlphabet.complete .ok)) := by
  unfold execConfig alphabetAccepted
  by_cases h : s.cfgLen = 36
  · by_cases hd : s.cfgAlpha.toList.Nodup
    · refine .inr (.inr ⟨⟨h, hd⟩, ?_⟩)
      rw [if_neg (not_not.mpr h), if_neg (by rw [hasDuplicate_eq_true_iff]; exact not_not.mpr hd)]
    · refine .inr (.inl ⟨h, hd, ?_⟩)
      rw [if_neg (not_not.mpr h), if_pos ((hasDuplicate_eq_true_iff _).mpr hd)]
  · exact .inl ⟨h, if_pos h⟩

/-- ENCODE completes in one of three ways (42_encode.md R140). -/
theorem execEncode_cases (s : State) :
    (s.cfgValid = false ∧ execEncode s = .next (finishEncode s [] .notConfigured))
      ∨ (s.cfgValid = true ∧ s.valIn.toInt = -2 ^ 63
          ∧ execEncode s = .next (finishEncode s [] .encodeRange))
      ∨ (s.cfgValid = true ∧ -2 ^ 63 < s.valIn.toInt ∧ s.valIn.toInt < 2 ^ 63
          ∧ execEncode s = .next (finishEncode s (encodeText s.actAlpha s.valIn.toInt) .ok)) := by
  have hlo := BitVec.le_toInt s.valIn
  have hhi := BitVec.toInt_lt (x := s.valIn)
  unfold execEncode s64
  cases hc : s.cfgValid with
  | false => exact .inl ⟨rfl, by simp⟩
  | true =>
    by_cases h : s.valIn.toInt = -2 ^ 63
    · exact .inr (.inl ⟨rfl, h, by simp [h]⟩)
    · have h1 : -2 ^ 63 < s.valIn.toInt := by omega
      have h2 : s.valIn.toInt < 2 ^ 63 := by omega
      refine .inr (.inr ⟨rfl, h1, h2, ?_⟩)
      rw [encodeString_encodeLoop _ _ _ h1 h2, if_neg (by decide), if_neg h]

/-- The end of an ENCODE: only its results, STATUS and the unobservable datapath change
(42_encode.md R147, R148). -/
theorem finishEncode_eq (s : State) (str : List Byte) (code : StatusCode) :
    ∃ p n, finishEncode s str code = { s with
      encLen := BitVec.ofNat 5 str.length, encText := bufferOf 16 str, err := code
      lastOp := opField s.pend, busy := false, done := true, encPath := p, draws := n } :=
  ⟨_, _, rfl⟩

/-- The end of a DECODE: only its results, STATUS and the unobservable datapath change
(43_decode.md R169, R170). -/
theorem finishDecode_eq (s : State) (x : BitVec 64) (code : StatusCode) :
    ∃ p n, finishDecode s x code = { s with
      valOutLo := loHalf x, valOutHi := hiHalf x, err := code
      lastOp := opField s.pend, busy := false, done := true, decPath := p, draws := n } :=
  ⟨_, _, rfl⟩

/-- DECODE's digits are all valid, or one is not. -/
theorem inputDigit_cases (s : State) (n : Nat) :
    (∃ d : Nat → Fin 36, ∀ i, i < n → inputDigit s i = some (d i))
      ∨ ∃ i, i < n ∧ inputDigit s i = none := by
  by_cases h : ∃ i, i < n ∧ inputDigit s i = none
  · exact .inr h
  · refine .inl ⟨fun i => (inputDigit s i).getD 0, fun i hi => ?_⟩
    cases hd : inputDigit s i with
    | none => exact absurd ⟨i, hi, hd⟩ h
    | some d => simp [hd]

/-- The value DECODE returns for digits of value `x` (43_decode.md R169). -/
def signedResult (s : State) (x : Nat) : BitVec 64 :=
  bits64 (if decodeSign s then -(x : Int) else x)

/-- DECODE completes in one of five ways (43_decode.md R160, R174). -/
theorem execDecode_cases (s : State) :
    (s.cfgValid = false ∧ execDecode s = .next (finishDecode s 0 .notConfigured))
      ∨ (s.cfgValid = true ∧ 13 < decodeCount s
          ∧ execDecode s = .next (finishDecode s 0 .numberTooLarge))
      ∨ (s.cfgValid = true ∧ decodeCount s ≤ 13
          ∧ (∃ i, i < decodeCount s ∧ inputDigit s i = none)
          ∧ execDecode s = .next (finishDecode s 0 .invalidCharacter))
      ∨ ∃ d : Nat → Fin 36, s.cfgValid = true ∧ decodeCount s ≤ 13
          ∧ (∀ i, i < decodeCount s → inputDigit s i = some (d i))
          ∧ ((2 ^ 63 - 1 < digitSum (fun i => (d i).val) (decodeCount s)
                ∧ execDecode s = .next (finishDecode s 0 .numberTooLarge))
              ∨ (digitSum (fun i => (d i).val) (decodeCount s) ≤ 2 ^ 63 - 1
                ∧ execDecode s = .next (finishDecode s
                    (signedResult s (digitSum (fun i => (d i).val) (decodeCount s))) .ok))) := by
  unfold execDecode
  cases hc : s.cfgValid with
  | false => exact .inl ⟨rfl, by simp⟩
  | true =>
    by_cases hn : 13 < decodeCount s
    · exact .inr (.inl ⟨rfl, hn, by simp [hn]⟩)
    · rcases inputDigit_cases s (decodeCount s) with ⟨d, hd⟩ | hbad
      · obtain ⟨h1, h2, h3⟩ := decodeRun_valid s d (by omega) hd
        refine .inr (.inr (.inr ⟨d, rfl, by omega, hd, ?_⟩))
        by_cases hx : 2 ^ 63 - 1 < digitSum (fun i => (d i).val) (decodeCount s)
        · refine .inl ⟨hx, ?_⟩
          simp only [if_neg hn, h1, h3, if_pos hx, Bool.false_eq_true, if_false, reduceCtorEq]
        · refine .inr ⟨by omega, ?_⟩
          simp only [if_neg hn, h1, h2, h3, if_neg hx, Bool.false_eq_true, if_false, reduceCtorEq,
            signedResult]
      · refine .inr (.inr (.inl ⟨rfl, by omega, hbad, ?_⟩))
        simp [hn, decodeRun_invalid s (by omega) hbad]

/-- Every command completes; `u` is what it did before completion (40_command_control.md R104). -/
theorem exec_completes (i : Instr) (s : State) :
    ∃ u code, exec i s = .next (State.complete u code) ∧ u.pend = s.pend ∧ u.ie = s.ie
      ∧ u.ovr = s.ovr ∧ u.readData = s.readData ∧ u.schedule = s.schedule ∧ sameOperands s u := by
  cases i with
  | nop => exact ⟨s, _, rfl, rfl, rfl, rfl, rfl, rfl, by simp [sameOperands]⟩
  | illegalOpLow op => exact ⟨s, _, rfl, rfl, rfl, rfl, rfl, rfl, by simp [sameOperands]⟩
  | illegalOpHigh op => exact ⟨s, _, rfl, rfl, rfl, rfl, rfl, rfl, by simp [sameOperands]⟩
  | illegalRsvd op rsvd => exact ⟨s, _, rfl, rfl, rfl, rfl, rfl, rfl, by simp [sameOperands]⟩
  | config =>
    rcases execConfig_cases s with ⟨-, h⟩ | ⟨-, -, h⟩ | ⟨-, h⟩ <;>
      exact ⟨_, _, h, rfl, rfl, rfl, rfl, rfl, by simp [sameOperands]⟩
  | encode =>
    rcases execEncode_cases s with ⟨-, h⟩ | ⟨-, -, h⟩ | ⟨-, -, -, h⟩ <;>
      exact ⟨_, _, h, rfl, rfl, rfl, rfl, rfl, by simp [sameOperands]⟩
  | decode =>
    rcases execDecode_cases s with ⟨-, h⟩ | ⟨-, -, h⟩ | ⟨-, -, -, h⟩ |
      ⟨d, -, -, -, ⟨-, h⟩ | ⟨-, h⟩⟩ <;>
      exact ⟨_, _, h, rfl, rfl, rfl, rfl, rfl, by simp [sameOperands]⟩

end Sys2Proof.Machine
end

