-- ==== Sys2Proof/Laws/PerInstr.lean ====
section
/-! SUPPORT. The family of facts about every command as syntax: its word carries its fields, and its word
is a legal command's exactly where the command is not illegal (30_encoding.md R80, R82). -/

namespace Sys2Proof.Laws.WordFields

/-- The word of a well-formed command is OP + 16·RSVD (30_encoding.md R80), and it is above 3 exactly
where RSVD or the upper half of OP's range makes it illegal (R82). -/
def Statement (i : Instr) : Prop :=
  i.wellFormed = true →
    (encodeWord i).toNat = i.op.toNat + 16 * i.rsvd.toNat
      ∧ ((encodeWord i).toNat ≤ 3 ↔ i = .nop ∨ i = .config ∨ i = .encode ∨ i = .decode)

theorem encodeWord_toNat (i : Instr) :
    (encodeWord i).toNat = i.op.toNat + 16 * i.rsvd.toNat := by
  have h1 := opField_toNat (encodeWord i)
  have h2 := rsvdField_toNat (encodeWord i)
  rw [opField_encodeWord] at h1
  rw [rsvdField_encodeWord] at h2
  omega

theorem nop : Statement .nop := by intro _; decide
theorem config : Statement .config := by intro _; decide
theorem encode : Statement .encode := by intro _; decide
theorem decode : Statement .decode := by intro _; decide

theorem illegalOpLow (op : BitVec 4) : Statement (.illegalOpLow op) := by
  intro h
  simp only [Instr.wellFormed, decide_eq_true_eq] at h
  refine ⟨encodeWord_toNat _, ?_⟩
  rw [encodeWord_toNat]
  simp only [Instr.op, Instr.rsvd, reduceCtorEq, or_self, iff_false]
  omega

theorem illegalOpHigh (op : BitVec 4) : Statement (.illegalOpHigh op) := by
  intro h
  simp only [Instr.wellFormed, decide_eq_true_eq] at h
  refine ⟨encodeWord_toNat _, ?_⟩
  rw [encodeWord_toNat]
  simp only [Instr.op, Instr.rsvd, reduceCtorEq, or_self, iff_false]
  omega

theorem illegalRsvd (op : BitVec 4) (rsvd : BitVec 28) : Statement (.illegalRsvd op rsvd) := by
  intro h
  simp only [Instr.wellFormed, decide_eq_true_eq] at h
  have hne : rsvd.toNat ≠ 0 := fun e => h (BitVec.eq_of_toNat_eq (by simpa using e))
  refine ⟨encodeWord_toNat _, ?_⟩
  rw [encodeWord_toNat]
  simp only [Instr.op, Instr.rsvd, reduceCtorEq, or_self, iff_false]
  omega

end Sys2Proof.Laws.WordFields
end

