-- ==== Sys2Proof/Laws/Step.lean ====
section
/-! SUPPORT. What a step can do, said once, and what a host write can do. -/

namespace Sys2Proof.Machine

@[simp] theorem nextTurn_cons (s : State) (t : Turn) (rest : List Turn)
    (h : s.schedule = t :: rest) : nextTurn s = t := by simp [nextTurn, h]

@[simp] theorem nextTurn_nil (s : State) (h : s.schedule = []) : nextTurn s = .core := by
  simp [nextTurn, h]

/-- A step performs its turn on the state that holds the turns after it. -/
theorem step_cons (s : State) (t : Turn) (rest : List Turn) (h : s.schedule = t :: rest) :
    step s = takeTurn t { s with schedule := rest } := by
  rw [step, nextTurn_cons s t rest h]
  simp [State.popTurn, h]

/-- With no turn scheduled the step is the core's turn. -/
theorem step_nil (s : State) (h : s.schedule = []) : step s = coreTurn s := by
  rw [step, nextTurn_nil s h, takeTurn, State.popTurn, h]
  cases s; simp_all

/-- The core's turn while a command is pending is the command's meaning. -/
theorem takeTurn_core_busy (s : State) (h : s.busy = true) :
    takeTurn .core s = exec (decodeWord s.pend) s := if_pos h

/-- The core's turn while no command is pending does nothing. -/
theorem takeTurn_core_idle (s : State) (h : s.busy = false) : takeTurn .core s = .next s :=
  if_neg (by simp [h])

/-- A step at the core's turn while a command is pending. -/
theorem step_core_busy (s : State) (rest : List Turn) (hb : s.busy = true)
    (h : s.schedule = .core :: rest) :
    step s = exec (decodeWord s.pend) { s with schedule := rest } :=
  (step_cons s .core rest h).trans (takeTurn_core_busy { s with schedule := rest } hb)

/-- A step at a host write's turn. -/
theorem step_hostWrite (s : State) (w : HostIndex) (d : Word) (rest : List Turn)
    (h : s.schedule = .hostWrite w d :: rest) :
    step s = .next (hostWrite { s with schedule := rest } w d) := step_cons s _ rest h

/-- A step at a host read's turn. -/
theorem step_hostRead (s : State) (w : HostIndex) (rest : List Turn)
    (h : s.schedule = .hostRead w :: rest) :
    step s = .next { s with schedule := rest, readData := hostRead s w } := step_cons s _ rest h

/-- The protected write of a busy block, and of an idle one. -/
theorem protectedWrite_busy (s t : State) (h : s.busy = true) :
    s.protectedWrite t = s.dropWrite := by simp [State.protectedWrite, h]

theorem protectedWrite_idle (s t : State) (h : s.busy = false) : s.protectedWrite t = t := by
  simp [State.protectedWrite, h]

/-- The registers at the word indices, by how a write treats them (20_memory.md R63). -/
theorem hostReg_classes : ∀ w : HostIndex,
    (writeIgnored w = true ∧ hostReg w ∈ [HostReg.id, .valOutLo, .valOutHi, .encLen, .encText 0,
        .encText 1, .encText 2, .encText 3, .actAlpha 0, .actAlpha 1, .actAlpha 2, .actAlpha 3,
        .actAlpha 4, .actAlpha 5, .actAlpha 6, .actAlpha 7, .actAlpha 8, .reserved])
      ∨ w = 1 ∨ w = 3 ∨ w = 2
      ∨ (busyProtected w = true ∧ w ≠ 2 ∧ hostReg w ∈ [HostReg.valInLo, .valInHi, .decLen,
          .cfgLen, .decText 0, .decText 1, .decText 2, .decText 3, .cfgAlpha 0, .cfgAlpha 1,
          .cfgAlpha 2, .cfgAlpha 3, .cfgAlpha 4, .cfgAlpha 5, .cfgAlpha 6, .cfgAlpha 7,
          .cfgAlpha 8]) := by
  decide +kernel

/-- What a host write can do (20_memory.md R63). -/
theorem hostWrite_cases (s : State) (w : HostIndex) (d : Word) :
    (writeIgnored w = true ∧ hostWrite s w d = s)
      ∨ (w = 1 ∧ hostWrite s w d = s.writeCtrl d)
      ∨ (w = 3 ∧ hostWrite s w d = s.writeStatus d)
      ∨ (busyProtected w = true ∧ s.busy = true ∧ hostWrite s w d = s.dropWrite)
      ∨ (w = 2 ∧ s.busy = false ∧ hostWrite s w d = s.issue d)
      ∨ (busyProtected w = true ∧ w ≠ 2 ∧ s.busy = false
          ∧ ∃ lo hi dl cl dt ca, hostWrite s w d = { s with
              valInLo := lo, valInHi := hi, decLen := dl, cfgLen := cl, decText := dt
              cfgAlpha := ca }) := by
  rcases hostReg_classes w with ⟨h, hr⟩ | rfl | rfl | rfl | ⟨h, h2, hr⟩
  · refine .inl ⟨h, ?_⟩
    simp only [List.mem_cons, List.not_mem_nil, or_false] at hr
    unfold hostWrite
    rcases hr with hr | hr | hr | hr | hr | hr | hr | hr | hr | hr | hr | hr | hr | hr | hr | hr |
      hr | hr <;> rw [hr]
  · exact .inr (.inl ⟨rfl, rfl⟩)
  · exact .inr (.inr (.inl ⟨rfl, rfl⟩))
  · by_cases hb : s.busy = true
    · exact .inr (.inr (.inr (.inl ⟨by decide, hb, protectedWrite_busy s _ hb⟩)))
    · rw [Bool.not_eq_true] at hb
      exact .inr (.inr (.inr (.inr (.inl ⟨rfl, hb, protectedWrite_idle s _ hb⟩))))
  · simp only [List.mem_cons, List.not_mem_nil, or_false] at hr
    by_cases hb : s.busy = true
    · refine .inr (.inr (.inr (.inl ⟨h, hb, ?_⟩)))
      unfold hostWrite
      rcases hr with hr | hr | hr | hr | hr | hr | hr | hr | hr | hr | hr | hr | hr | hr | hr | hr |
        hr <;> rw [hr] <;> exact protectedWrite_busy s _ hb
    · rw [Bool.not_eq_true] at hb
      refine .inr (.inr (.inr (.inr (.inr ⟨h, h2, hb, ?_⟩))))
      unfold hostWrite
      rcases hr with hr | hr | hr | hr | hr | hr | hr | hr | hr | hr | hr | hr | hr | hr | hr | hr |
        hr <;> rw [hr] <;> exact ⟨_, _, _, _, _, _, protectedWrite_idle s _ hb⟩

/-- The classes of word indices exclude each other. -/
theorem writeIgnored_excludes : ∀ w : HostIndex, writeIgnored w = true →
    busyProtected w = false ∧ w ≠ 1 ∧ w ≠ 3 ∧ w ≠ 2 := by decide +kernel

theorem busyProtected_excludes : ∀ w : HostIndex, busyProtected w = true → w ≠ 1 ∧ w ≠ 3 := by
  decide +kernel

/-- The indices of the operand registers. -/
theorem busyProtected_indices : ∀ w : HostIndex, busyProtected w = true → w ≠ 2 →
    w = 4 ∨ w = 5 ∨ w = 8 ∨ w = 10 ∨ (∃ k : Fin 4, w = BitVec.ofNat 6 (12 + k.val))
      ∨ (∃ k : Fin 9, w = BitVec.ofNat 6 (20 + k.val)) := by decide +kernel

/-- While busy a host write can change only IE, OVR and DONE (40_command_control.md R106, R107). -/
theorem hostWrite_busy (s : State) (w : HostIndex) (d : Word) (hb : s.busy = true) :
    ∃ ie ovr dn, hostWrite s w d = { s with ie := ie, ovr := ovr, done := dn } := by
  rcases hostWrite_cases s w d with ⟨-, e⟩ | ⟨-, e⟩ | ⟨-, e⟩ | ⟨-, -, e⟩ | ⟨-, h, -⟩ |
    ⟨-, -, h, -⟩
  · exact ⟨_, _, _, e⟩
  · exact ⟨_, _, _, e⟩
  · exact ⟨_, _, _, e⟩
  · exact ⟨_, _, _, e⟩
  · simp [hb] at h
  · simp [hb] at h

/-- A host write changes no result, alphabet, CFG_VALID, ERR or LAST_OP (20_memory.md R68). -/
theorem hostWrite_sameResults (s : State) (w : HostIndex) (d : Word) :
    sameResults s (hostWrite s w d) := by
  rcases hostWrite_cases s w d with ⟨-, e⟩ | ⟨-, e⟩ | ⟨-, e⟩ | ⟨-, -, e⟩ | ⟨-, -, e⟩ |
    ⟨-, -, -, lo, hi, dl, cl, dt, ca, e⟩ <;> rw [e] <;> simp [sameResults]

/-- A read sees only the register at its index. -/
theorem hostRead_congr (s t : State) (w : HostIndex) (hie : t.ie = s.ie) (hb : t.busy = s.busy)
    (hd : t.done = s.done) (ho : t.ovr = s.ovr) (hr : sameResults s t)
    (h4 : hostReg w = .valInLo → t.valInLo = s.valInLo)
    (h5 : hostReg w = .valInHi → t.valInHi = s.valInHi)
    (h8 : hostReg w = .decLen → t.decLen = s.decLen)
    (h10 : hostReg w = .cfgLen → t.cfgLen = s.cfgLen)
    (hdt : ∀ k, hostReg w = .decText k → packWord t.decText k = packWord s.decText k)
    (hca : ∀ k, hostReg w = .cfgAlpha k → packWord t.cfgAlpha k = packWord s.cfgAlpha k) :
    hostRead t w = hostRead s w := by
  unfold hostRead
  cases hx : hostReg w <;> simp_all [ctrlWord, statusWord, sameResults]

/-- What a step can do (20_memory.md R70): a host access, a completion, an idle core's turn, or reset. -/
theorem step_cases {s t : State} (h : step s = .next t) :
    (∃ w, nextTurn s = .hostRead w ∧ t = s.popTurn.latchRead w)
      ∨ (∃ w d, nextTurn s = .hostWrite w d ∧ t = hostWrite s.popTurn w d)
      ∨ (completesNext s ∧ exec (decodeWord s.pend) s.popTurn = .next t)
      ∨ (nextTurn s = .core ∧ s.busy = false ∧ t = s.popTurn)
      ∨ (nextTurn s = .reset ∧ t = s.popTurn.applyReset) := by
  unfold step takeTurn at h
  cases hn : nextTurn s with
  | hostRead w => rw [hn] at h; cases h; exact .inl ⟨w, rfl, rfl⟩
  | hostWrite w d => rw [hn] at h; cases h; exact .inr (.inl ⟨w, d, rfl, rfl⟩)
  | core =>
    rw [hn] at h
    by_cases hb : s.busy = true
    · exact .inr (.inr (.inl ⟨⟨hb, hn⟩, by rw [← h]; exact (if_pos hb).symm⟩))
    · rw [Bool.not_eq_true] at hb
      have e : coreTurn s.popTurn = .next s.popTurn := if_neg (by simp [hb])
      rw [e] at h
      cases h
      exact .inr (.inr (.inr (.inl ⟨rfl, hb, rfl⟩)))
  | reset => rw [hn] at h; cases h; exact .inr (.inr (.inr (.inr ⟨rfl, rfl⟩)))

/-- The host's checks place a command word so that the very next step is its meaning (log 2). -/
theorem step_withFetchWord (s : State) (nbits w : Nat) :
    step (s.withFetchWord nbits w)
      = exec (decodeWord (BitVec.ofNat 32 (w % 2 ^ nbits))) (s.withFetchWord nbits w) := rfl

/-- Several steps of a machine: the first, then the rest. -/
theorem machine_run_succ (M : Host.Core) (k : Nat) (s t : M.State) (h : M.step s = .next t) :
    M.run (k + 1) s = M.run k t := by
  rw [Host.Core.run, h]

/-- A run joins the run that its last state begins. -/
theorem machine_run_add (M : Host.Core) (k m : Nat) (s t : M.State) (h : M.run k s = .next t) :
    M.run (k + m) s = M.run m t := by
  induction k generalizing s with
  | zero => cases h; rw [Nat.zero_add]
  | succ k ih =>
    rw [show k + 1 + m = (k + m) + 1 by omega]
    rw [Host.Core.run] at h ⊢
    split at h
    · exact ih _ h
    · cases h
    · cases h

/-- Several steps of the block: the first, then the rest. -/
theorem run_succ (k : Nat) (s t : State) (h : step s = .next t) :
    Sys2Proof.core.run (k + 1) s = Sys2Proof.core.run k t :=
  machine_run_succ Sys2Proof.core k s t h

theorem run_one (s t : State) (h : step s = .next t) : Sys2Proof.core.run 1 s = .next t :=
  run_succ 0 s t h

end Sys2Proof.Machine
end

