-- ==== Sys2Proof/Laws/Sequence.lean ====
section
/-! SUPPORT. Runs of several steps: how they join, what polls of STATUS do, and what a WAIT does
(30_encoding.md R88). -/

namespace Sys2Proof.Machine

/-- A run joins the run that its last state begins. -/
theorem run_add (k m : Nat) (s t : State) (h : Sys2Proof.core.run k s = .next t) :
    Sys2Proof.core.run (k + m) s = Sys2Proof.core.run m t :=
  machine_run_add Sys2Proof.core k m s t h

/-- Polls of STATUS change only what the host last read. -/
theorem run_polls (n : Nat) : ∀ (s : State) (rest : List Turn),
    s.schedule = List.replicate n (rd 3) ++ rest →
      ∃ r, Sys2Proof.core.run n s = .next { s with schedule := rest, readData := r } := by
  induction n with
  | zero =>
    intro s rest h
    have h' : s.schedule = rest := h
    subst h'
    exact ⟨s.readData, rfl⟩
  | succ n ih =>
    intro s rest h
    have h1 := step_cons s (rd 3) (List.replicate n (rd 3) ++ rest)
      (by rw [h, List.replicate_succ]; rfl)
    obtain ⟨r, hr⟩ := ih (State.latchRead { s with schedule := List.replicate n (rd 3) ++ rest } 3)
      rest rfl
    exact ⟨r, (run_succ n _ _ h1).trans hr⟩

/-- A WAIT after an issue: the command's meaning, then the read that sees it done. -/
theorem run_waitTurns (s : State) (i : Instr) (polls : Nat) (rest : List Turn)
    (hb : s.busy = true) (hi : decodeWord s.pend = i)
    (h : s.schedule = waitTurns polls ++ rest) :
    ∃ r u, exec i { s with schedule := rd 3 :: rest, readData := r } = .next u
      ∧ Sys2Proof.core.run (waitTurns polls).length s
          = .next { u with schedule := rest, readData := hostRead u 3 } := by
  subst hi
  obtain ⟨r, hr⟩ := run_polls polls s (.core :: rd 3 :: rest) (by rw [h, waitTurns]; simp)
  obtain ⟨v, c, hv, -, -, -, -, hs, -⟩ :=
    exec_completes (decodeWord s.pend) { s with schedule := rd 3 :: rest, readData := r }
  refine ⟨r, v.complete c, hv, ?_⟩
  have h1 : step { s with schedule := .core :: rd 3 :: rest, readData := r }
      = .next (v.complete c) :=
    (step_core_busy { s with schedule := .core :: rd 3 :: rest, readData := r } _ hb rfl).trans hv
  have h2 := step_cons (v.complete c) (rd 3) rest hs
  rw [show (waitTurns polls).length = polls + 2 by simp [waitTurns], run_add polls 2 _ _ hr,
    run_succ 1 _ _ h1, run_succ 0 _ _ h2]
  rfl

/-- A host write keeps the turns to come. -/
@[simp] theorem hostWrite_schedule (s : State) (w : HostIndex) (d : Word) :
    (hostWrite s w d).schedule = s.schedule := by
  rcases hostWrite_cases s w d with ⟨-, e⟩ | ⟨-, e⟩ | ⟨-, e⟩ | ⟨-, -, e⟩ | ⟨-, -, e⟩ |
    ⟨-, -, -, lo, hi, dl, cl, dt, ca, e⟩ <;> rw [e] <;> rfl

/-! A step at the write of a register that a pseudo-instruction writes, while idle. -/

theorem step_write_valInLo (s : State) (d : Word) (rest : List Turn) (hb : s.busy = false)
    (h : s.schedule = wr 4 d :: rest) :
    step s = .next { s with schedule := rest, valInLo := d } :=
  (step_hostWrite s 4 d rest h).trans
    (congrArg _ (protectedWrite_idle { s with schedule := rest } _ hb))

theorem step_write_valInHi (s : State) (d : Word) (rest : List Turn) (hb : s.busy = false)
    (h : s.schedule = wr 5 d :: rest) :
    step s = .next { s with schedule := rest, valInHi := d } :=
  (step_hostWrite s 5 d rest h).trans
    (congrArg _ (protectedWrite_idle { s with schedule := rest } _ hb))

theorem step_write_decLen (s : State) (d : Word) (rest : List Turn) (hb : s.busy = false)
    (h : s.schedule = wr 8 d :: rest) :
    step s = .next { s with schedule := rest, decLen := d } :=
  (step_hostWrite s 8 d rest h).trans
    (congrArg _ (protectedWrite_idle { s with schedule := rest } _ hb))

theorem step_write_cfgLen (s : State) (d : Word) (rest : List Turn) (hb : s.busy = false)
    (h : s.schedule = wr 10 d :: rest) :
    step s = .next { s with schedule := rest, cfgLen := d } :=
  (step_hostWrite s 10 d rest h).trans
    (congrArg _ (protectedWrite_idle { s with schedule := rest } _ hb))

theorem step_write_cmd (s : State) (d : Word) (rest : List Turn) (hb : s.busy = false)
    (h : s.schedule = wr 2 d :: rest) :
    step s = .next (State.issue { s with schedule := rest } d) :=
  (step_hostWrite s 2 d rest h).trans
    (congrArg _ (protectedWrite_idle { s with schedule := rest } _ hb))

theorem step_write_decText (s : State) (k : Nat) (hk : k < 4) (d : Word) (rest : List Turn)
    (hb : s.busy = false) (h : s.schedule = wr (12 + k) d :: rest) :
    step s = .next { s with schedule := rest, decText := setWord s.decText k d } := by
  refine (step_hostWrite s _ d rest h).trans (congrArg _ ?_)
  rw [hostWrite, hostReg_decText ⟨k, hk⟩]
  exact protectedWrite_idle { s with schedule := rest } _ hb

theorem step_write_cfgAlpha (s : State) (k : Nat) (hk : k < 9) (d : Word) (rest : List Turn)
    (hb : s.busy = false) (h : s.schedule = wr (20 + k) d :: rest) :
    step s = .next { s with schedule := rest, cfgAlpha := setWord s.cfgAlpha k d } := by
  refine (step_hostWrite s _ d rest h).trans (congrArg _ ?_)
  rw [hostWrite, hostReg_cfgAlpha ⟨k, hk⟩]
  exact protectedWrite_idle { s with schedule := rest } _ hb

end Sys2Proof.Machine
end

