-- ==== Sys2Proof/Tests/Slice0.lean ====
section
/-! SUPPORT. The model's own tests: ill-formed commands that the well-formedness check refuses, words
decoded bit by bit from 30_encoding.md R80 to R84, single steps with the results of
95_test_vectors.md, and for every statement with hypotheses a state that meets them all. -/

namespace Sys2Proof.Tests

open Sys2Proof.Machine

/-! ### Helpers -/

/-- What holds of the next state, where there is one. -/
def nextHas (o : Host.Outcome State Fault Refusal) (p : State → Bool) : Bool :=
  match o with
  | .next t => p t
  | .fault _ => false
  | .refused _ => false

/-- The state `s` with the command word `w` pending. -/
def pending (s : State) (w : Word) : State := { s with pend := w, busy := true }

/-- The reset state with turns to come. -/
def scheduled (turns : List Turn) : State := { State.reset with schedule := turns }

/-- The reset state with a pending NOP and turns to come. -/
def busyScheduled (turns : List Turn) : State := pending (scheduled turns) 0

/-- The reset state with an ENCODE operand. -/
def withValue (hi lo : Word) : State := { State.reset with valInHi := hi, valInLo := lo }

/-- The reset state with a DECODE operand. -/
def withText (str : List Byte) : State :=
  { State.reset with decLen := BitVec.ofNat 32 str.length, decText := bufferOf 16 str }

/-- The reset state without a valid codec. -/
def unconfigured : State := { State.reset with cfgValid := false }

/-- The default alphabet reversed, the second row of 95_test_vectors.md 2.3. -/
def reversedAlphabet : Vector Byte 36 := Vector.ofFn fun i => defaultAlphabet[35 - i.val]

/-! ### Well-formedness: each check refuses an ill-formed command -/

theorem test_wf_illegalOpLow_below : (Instr.illegalOpLow 3).wellFormed = false := by decide
theorem test_wf_illegalOpLow_above : (Instr.illegalOpLow 8).wellFormed = false := by decide
theorem test_wf_illegalOpHigh_below : (Instr.illegalOpHigh 7).wellFormed = false := by decide
theorem test_wf_illegalRsvd_zero : (Instr.illegalRsvd 2 0).wellFormed = false := by decide

/-! ### Decoding: words written out from the encoding of 30_encoding.md R80 and R82, RSVD first -/

theorem test_decode_nop :
    decodeWord 0b0000000000000000000000000000_0000 = .nop := by decide
theorem test_decode_config :
    decodeWord 0b0000000000000000000000000000_0001 = .config := by decide
theorem test_decode_encode :
    decodeWord 0b0000000000000000000000000000_0010 = .encode := by decide
theorem test_decode_decode :
    decodeWord 0b0000000000000000000000000000_0011 = .decode := by decide
theorem test_decode_illegalOpLow :
    decodeWord 0b0000000000000000000000000000_0101 = .illegalOpLow 5 := by decide
theorem test_decode_illegalOpHigh :
    decodeWord 0b0000000000000000000000000000_1000 = .illegalOpHigh 8 := by decide
theorem test_decode_illegalRsvd :
    decodeWord 0b1000000000000000000000000001_0010 = .illegalRsvd 2 0x8000001 := by decide

/-- 30_encoding.md R83: "a model must not decode 0x00000012 as ENCODE". -/
theorem test_decode_rsvd_bit4 : decodeWord 0x00000012 = .illegalRsvd 2 1 := by decide

/-- The bytes of a word stand least significant first (20_memory.md R64). -/
theorem test_decodeBytes_order :
    (decodeBytes [0x03, 0x00, 0x00, 0x00, 0xAA]).toOption = some (.decode, [0xAA]) := by decide

/-- 30_encoding.md R81: three bytes hold no command. -/
theorem test_decodeBytes_truncated : (decodeBytes [0x02, 0x00, 0x00]).toOption = none := by decide

theorem test_decodeTableWord_longer : decodeTableWord 40 2 = none := by decide

/-- A word stored as the next command is what the very next step runs. -/
theorem test_withFetchWord :
    nextHas (step (State.reset.withFetchWord 32 0x00000004))
      (fun t => hostRead t 3 == 0x00040706) = true := by decide +kernel

/-! ### One step each, results from 95_test_vectors.md -/

/-- 95_test_vectors.md 2.1, row 1. -/
theorem test_nop : nextHas (step (pending State.reset 0))
    (fun t => hostRead t 3 == 0x00000006) = true := by decide +kernel

/-- 95_test_vectors.md 2.1, row 2. -/
theorem test_illegalOpLow : nextHas (step (pending State.reset 4))
    (fun t => hostRead t 3 == 0x00040706) = true := by decide +kernel

/-- 95_test_vectors.md 2.1, row 3. -/
theorem test_illegalOpHigh : nextHas (step (pending State.reset 15))
    (fun t => hostRead t 3 == 0x000F0706) = true := by decide +kernel

/-- 95_test_vectors.md 2.1, row 4: not an ENCODE. -/
theorem test_illegalRsvd : nextHas (step (pending State.reset 0x12))
    (fun t => hostRead t 3 == 0x00020706 && hostRead t 9 == 0) = true := by decide +kernel

/-- 95_test_vectors.md 2.3, row 2: the reversed alphabet is installed. -/
theorem test_config_reversed :
    nextHas (step (pending { State.reset with cfgAlpha := reversedAlphabet } 1))
      (fun t => hostRead t 3 == 0x00010006 && hostRead t 32 == 0x7778797A
        && hostRead t 40 == 0x30313233) = true := by decide +kernel

/-- 95_test_vectors.md 2.3, row 8: CFGA[35] = '0' repeats '0'. -/
theorem test_config_duplicate :
    nextHas (step (pending { State.reset with
        cfgAlpha := setWord defaultAlphabet 8 0x30797877 } 1))
      (fun t => hostRead t 3 == 0x00010402 && hostRead t 40 == 0x7A797877) = true := by
  decide +kernel

/-- 95_test_vectors.md 2.4, row 22: −(2^63−1), the longest output. -/
theorem test_encode_longest : nextHas (step (pending (withValue 0x80000000 0x00000001) 2))
    (fun t => hostRead t 3 == 0x00020006 && hostRead t 9 == 14 && hostRead t 16 == 0x3279312D
      && hostRead t 17 == 0x6A693070 && hostRead t 18 == 0x38653233
      && hostRead t 19 == 0x00003765) = true := by decide +kernel

/-- 95_test_vectors.md 2.4, row 23: −2^63 is rejected. -/
theorem test_encode_minimum : nextHas (step (pending (withValue 0x80000000 0) 2))
    (fun t => hostRead t 3 == 0x00020606 && hostRead t 9 == 0 && hostRead t 16 == 0) = true := by
  decide +kernel

/-- 95_test_vectors.md 2.5, row "-ZZ": uppercase and a sign. -/
theorem test_decode_negative : nextHas (step (pending (withText [0x2D, 0x5A, 0x5A]) 3))
    (fun t => hostRead t 3 == 0x00030006 && hostRead t 7 == 0xFFFFFFFF
      && hostRead t 6 == 0xFFFFFAF1) = true := by decide +kernel

/-- 95_test_vectors.md 2.5, row "4000000000000": the overflow that a wrapped sign test misses. -/
theorem test_decode_overflow :
    nextHas (step (pending (withText (0x34 :: List.replicate 12 0x30)) 3))
      (fun t => hostRead t 3 == 0x00030106 && hostRead t 6 == 0 && hostRead t 7 == 0) = true := by
  decide +kernel

/-- 95_test_vectors.md 2.2: a write while busy is dropped. -/
theorem test_write_dropped : nextHas (step (busyScheduled [.hostWrite 4 7]))
    (fun t => hostRead t 4 == 0 && hostRead t 3 == 0x0000000D) = true := by decide +kernel

/-- 95_test_vectors.md 2.2: STATUS write 0x0000000A clears DONE and OVR. -/
theorem test_status_clear :
    nextHas (step { scheduled clrSequence with done := true, ovr := true })
      (fun t => hostRead t 3 == 0x00000004) = true := by decide +kernel

/-! ### Witnesses: the hypotheses of each statement hold together somewhere -/

/-- Both ends of each range of CommandWordsDecodeByRsvdThenOp. -/
theorem witness_CommandWordsDecodeByRsvdThenOp :
    (4 ≤ (4 : Word).toNat ∧ (4 : Word).toNat ≤ 7) ∧ (4 ≤ (7 : Word).toNat ∧ (7 : Word).toNat ≤ 7)
      ∧ (8 ≤ (8 : Word).toNat ∧ (8 : Word).toNat ≤ 15)
      ∧ (8 ≤ (15 : Word).toNat ∧ (15 : Word).toNat ≤ 15)
      ∧ 16 ≤ (16 : Word).toNat ∧ 16 ≤ (0xFFFFFFFF : Word).toNat := by decide

theorem witness_DecodeInvertsEncode :
    (Instr.illegalOpLow 7).wellFormed = true ∧ (Instr.illegalOpHigh 8).wellFormed = true
      ∧ (Instr.illegalRsvd 0 1).wellFormed = true := by decide

theorem witness_StepRunsTheDecodedCommand :
    (busyScheduled [.core, .reset]).busy = true
      ∧ (busyScheduled [.core, .reset]).schedule = .core :: [.reset]
      ∧ (busyScheduled []).busy = true ∧ (busyScheduled []).schedule = [] := by decide

theorem witness_IdleCoreTurnLeavesTheBlockUnchanged :
    (scheduled [.core, .reset]).busy = false
      ∧ (scheduled [.core, .reset]).schedule = .core :: [.reset]
      ∧ (scheduled []).busy = false ∧ (scheduled []).schedule = [] := by decide

/-- A read, and the ends of the ranges of reserved indices. -/
theorem witness_HostReadReturnsTheRegisterAndChangesNothing :
    (scheduled [.hostRead 63]).schedule = .hostRead 63 :: []
      ∧ (∀ w ∈ [(11 : HostIndex), 29, 31, 41, 63],
          w.toNat = 11 ∨ (29 ≤ w.toNat ∧ w.toNat ≤ 31) ∨ 41 ≤ w.toNat) := by decide

theorem witness_WriteToReadOnlyOrReservedWordIsIgnored :
    (scheduled [.hostWrite 63 7]).schedule = .hostWrite 63 7 :: [] ∧ writeIgnored 63 = true
      ∧ writeIgnored 0 = true ∧ writeIgnored 16 = true ∧ writeIgnored 29 = true := by decide

theorem witness_CtrlWriteSetsInterruptEnable :
    (scheduled [.hostWrite 1 3]).schedule = .hostWrite 1 3 :: [] := by decide

theorem witness_StatusWriteClearsDoneAndOverrun :
    (scheduled [.hostWrite 3 8]).schedule = .hostWrite 3 8 :: [] := by decide

theorem witness_CmdWriteWhileIdleIssues :
    (scheduled [.hostWrite 2 2]).schedule = .hostWrite 2 2 :: []
      ∧ (scheduled [.hostWrite 2 2]).busy = false := by decide

theorem witness_ProtectedWriteWhileBusyIsDropped :
    (busyScheduled [.hostWrite 28 1]).schedule = .hostWrite 28 1 :: []
      ∧ busyProtected 28 = true ∧ (busyScheduled [.hostWrite 28 1]).busy = true := by decide

theorem witness_OperandWriteWhileIdleIsReadBack :
    (scheduled [.hostWrite 28 1]).schedule = .hostWrite 28 1 :: [] ∧ busyProtected 28 = true
      ∧ (28 : HostIndex) ≠ 2 ∧ (scheduled [.hostWrite 28 1]).busy = false := by decide

/-- A drop sets OVR; an OVR that is set stays over a poll. -/
theorem witness_OverrunIsSetByDropsAndSticks :
    (∃ t, step (busyScheduled [.hostWrite 2 0]) = .next t ∧ t.ovr = true)
      ∧ ∃ t, step { scheduled [.hostRead 3] with ovr := true } = .next t ∧ t.ovr = true :=
  ⟨⟨_, rfl, rfl⟩, ⟨_, rfl, rfl⟩⟩

theorem witness_InterruptIsEnableAndDone : completesNext (pending unconfigured 2) := ⟨rfl, rfl⟩

theorem witness_ResetStepSetsEveryResetValue :
    (busyScheduled [.reset]).schedule = .reset :: [] := by decide

theorem witness_ResetAbandonsThePendingCommand :
    (busyScheduled [.reset, .core]).busy = true
      ∧ (busyScheduled [.reset, .core]).schedule = .reset :: .core :: [] := by decide

theorem witness_NopCompletesWithOk : (pending State.reset 0).pend = 0 := by decide

theorem witness_PendingIllegalWordCompletesWithCode7 :
    completesNext (pending State.reset 4) ∧ 3 < (pending State.reset 4).pend.toNat
      ∧ completesNext (pending State.reset 0xFFFFFFFF)
      ∧ 3 < (pending State.reset 0xFFFFFFFF).pend.toNat :=
  ⟨⟨rfl, rfl⟩, by decide, ⟨rfl, rfl⟩, by decide⟩

theorem witness_ConfigRejectsAWrongLength :
    ({ State.reset with cfgLen := 35 } : State).cfgLen.toNat ≠ 36
      ∧ ({ State.reset with cfgLen := 0xFFFFFFFF } : State).cfgLen.toNat ≠ 36 := by decide

theorem witness_ConfigRejectsARepeatedSymbol :
    ∃ s : State, s.cfgLen.toNat = 36 ∧ ∃ i j : Fin 36, i ≠ j ∧ s.cfgAlpha[i] = s.cfgAlpha[j] :=
  ⟨{ State.reset with cfgAlpha := Vector.replicate 36 0 }, rfl, 0, 35, by decide, by simp⟩

theorem witness_ConfigInstallsDistinctSymbols :
    State.reset.cfgLen.toNat = 36
      ∧ ∀ i j : Fin 36, i ≠ j → State.reset.cfgAlpha[i] ≠ State.reset.cfgAlpha[j] := by
  decide +kernel

/-- Each clause of CodecChangesOnlyByConfigAndReset: reset, an accepted and a rejected CONFIG, and a
step that is neither. -/
theorem witness_CodecChangesOnlyByConfigAndReset :
    nextTurn (scheduled [.reset]) = .reset
      ∧ (completesNext (pending State.reset 1) ∧ decodeWord (pending State.reset 1).pend = .config
          ∧ alphabetAccepted (pending State.reset 1))
      ∧ (completesNext (pending { State.reset with cfgLen := 37 } 1)
          ∧ decodeWord (pending { State.reset with cfgLen := 37 } 1).pend = .config
          ∧ ¬ alphabetAccepted (pending { State.reset with cfgLen := 37 } 1))
      ∧ (nextTurn (pending State.reset 2) ≠ .reset
          ∧ decodeWord (pending State.reset 2).pend ≠ .config) :=
  ⟨rfl, ⟨⟨rfl, rfl⟩, rfl, rfl, by decide +kernel⟩,
    ⟨⟨rfl, rfl⟩, rfl, fun h => absurd h.1 (by decide)⟩, by decide, by decide⟩

theorem witness_EncodeWithoutCodecReportsNotConfigured : unconfigured.cfgValid = false := by decide

theorem witness_EncodeOfTheMinimumReportsRange :
    (withValue 0x80000000 0).cfgValid = true ∧ (withValue 0x80000000 0).valInHi = 0x80000000
      ∧ (withValue 0x80000000 0).valInLo = 0 := by decide

theorem witness_EncodeWritesTheRadix36Text :
    (withValue 0x80000000 1).cfgValid = true
      ∧ (withValue 0x80000000 1).valIn.toInt ≠ -2 ^ 63 := by decide +kernel

/-- n at both ends of its range, 1 and 2^63−1. -/
theorem witness_EncodeOfANegativePrependsTheSign :
    (withValue 0xFFFFFFFF 0xFFFFFFFF).valIn.toInt = -((1 : Nat) : Int)
      ∧ (withValue 0 1).valIn.toInt = (1 : Nat)
      ∧ (withValue 0x80000000 1).valIn.toInt = -((2 ^ 63 - 1 : Nat) : Int)
      ∧ (withValue 0x7FFFFFFF 0xFFFFFFFF).valIn.toInt = (2 ^ 63 - 1 : Nat)
      ∧ (withValue 0 1).cfgValid = true
      ∧ (withValue 0 1).actAlpha = (withValue 0x80000000 1).actAlpha := by decide +kernel

/-- The ends of the ranges of EncodeLengthFollowsTheValue: 0, 35, −1, −35, 36^12 and −36^12. -/
theorem witness_EncodeLengthFollowsTheValue :
    (withValue 0 0).valIn.toInt = 0 ∧ (withValue 0 35).valIn.toInt = 35
      ∧ (withValue 0xFFFFFFFF 0xFFFFFFFF).valIn.toInt = -1
      ∧ (withValue 0xFFFFFFFF 0xFFFFFFDD).valIn.toInt = -35
      ∧ (withValue 0x41C21CB8 0xE1000000).valIn.toInt = 36 ^ 12
      ∧ (withValue 0xBE3DE347 0x1F000000).valIn.toInt = -36 ^ 12
      ∧ (withValue 0 0).cfgValid = true := by decide +kernel

theorem witness_EncodeNeverLeadsWithTheZeroDigit :
    (withValue 0xFFFFFFFF 0xFFFFFFDC).cfgValid = true
      ∧ (withValue 0xFFFFFFFF 0xFFFFFFDC).valIn.toInt ≠ -2 ^ 63
      ∧ (withValue 0xFFFFFFFF 0xFFFFFFDC).valIn.toInt ≠ 0 := by decide +kernel

/-- The reset state has the invariant, whatever its ENCODE operand. -/
theorem withValue_invariant (hi lo : Word) : BlockInvariant (withValue hi lo) := by
  refine ⟨fun _ => ?_, (by decide : ¬ (State.reset.busy = true ∧ State.reset.done = true)),
    (by decide : State.reset.encLen.toNat ≤ 14), ?_,
    (by decide : s64 State.reset.valOut ≠ -2 ^ 63)⟩
  · show defaultAlphabet.toList.Nodup
    decide +kernel
  · intro j _
    by_cases h : j < 16
    · rw [byteAt_of_lt _ _ h]
      simp [withValue, State.reset]
    · exact byteAt_of_ge _ _ (by omega)

theorem defaultAlphabet_noMinus : ∀ d : Fin 36, 1 ≤ d.val → State.reset.actAlpha[d] ≠ 0x2D := by
  decide +kernel

theorem witness_EncodeIsInjectiveWithoutMinusDigits :
    ∃ s s' t t' : State, s.cfgValid = true ∧ s'.cfgValid = true ∧ BlockInvariant s
      ∧ s'.actAlpha = s.actAlpha ∧ (∀ d : Fin 36, 1 ≤ d.val → s.actAlpha[d] ≠ 0x2D)
      ∧ s.valIn.toInt ≠ -2 ^ 63 ∧ s'.valIn.toInt ≠ -2 ^ 63
      ∧ exec .encode s = .next t ∧ exec .encode s' = .next t' ∧ outputString t = outputString t' :=
  ⟨withValue 0 36, withValue 0 36, _, _, rfl, rfl, withValue_invariant 0 36, rfl,
    defaultAlphabet_noMinus, by decide, by decide, rfl, rfl, rfl⟩

theorem witness_DecodeWithoutCodecReportsNotConfigured : unconfigured.cfgValid = false := by decide

/-- "-" has a sign, the empty input has none although DT[0] may hold '-'. -/
theorem witness_DecodeSignIsALeadingMinus :
    decodeSign (withText [0x2D]) = true
      ∧ decodeSign { withText [0x2D] with decLen := 0 } = false := by decide

/-- L = 15 with a sign, L = 2^32−1, and L = 14 without a sign. -/
theorem witness_DecodeRejectsMoreThan13Symbols :
    State.reset.cfgValid = true
      ∧ 15 ≤ ({ withText [0x2D] with decLen := 15 } : State).decLen.toNat
      ∧ 15 ≤ ({ withText [] with decLen := 0xFFFFFFFF } : State).decLen.toNat
      ∧ (withText (List.replicate 14 0x30)).decLen.toNat = 14
      ∧ (withText (List.replicate 14 0x30)).decText[0] ≠ 0x2D := by decide

/-- "12!" (95_test_vectors.md 2.5): symbol 2 is in no alphabet position. -/
theorem witness_DecodeReportsAnInvalidSymbol :
    ∃ s : State, s.cfgValid = true ∧ decodeCount s ≤ 13 ∧ ∃ i, i < decodeCount s ∧
      ∀ d : Fin 36, s.actAlpha[d] ≠ lc (byteAt s.decText (decodeOffset s + i)) :=
  ⟨withText [0x31, 0x32, 0x21], rfl, by decide, 2, by decide, by decide +kernel⟩

/-- "4000000000000" (95_test_vectors.md 2.5). -/
theorem witness_DecodeReportsAnExactOverflow :
    ∃ (s : State) (d : Nat → Fin 36), s.cfgValid = true ∧ decodeCount s ≤ 13
      ∧ (∀ i, i < decodeCount s → inputDigit s i = some (d i))
      ∧ 2 ^ 63 - 1 < digitSum (fun i => (d i).val) (decodeCount s) := by
  refine ⟨withText (0x34 :: List.replicate 12 0x30), fun i => if i = 0 then 4 else 0, rfl,
    by decide, ?_, ?_⟩
  · decide +kernel
  · decide +kernel

/-- "1y2p0ij32e8e7", the greatest value (95_test_vectors.md 2.5). -/
theorem witness_DecodeReturnsTheSignedValue :
    ∃ (s : State) (d : Nat → Fin 36), s.cfgValid = true ∧ decodeCount s ≤ 13
      ∧ (∀ i, i < decodeCount s → inputDigit s i = some (d i))
      ∧ digitSum (fun i => (d i).val) (decodeCount s) = 2 ^ 63 - 1 := by
  refine ⟨withText [0x31, 0x79, 0x32, 0x70, 0x30, 0x69, 0x6A, 0x33, 0x32, 0x65, 0x38, 0x65, 0x37],
    fun i => ([1, 34, 2, 25, 0, 18, 19, 3, 2, 14, 8, 14, 7] : List (Fin 36))[i]?.getD 0, rfl,
    by decide, ?_, ?_⟩
  · decide +kernel
  · decide +kernel

theorem witness_DecodeOfNoSymbolsIsZero :
    (withText []).cfgValid = true ∧ (withText []).decLen = 0
      ∧ (withText [0x2D]).decLen = 1 ∧ (withText [0x2D]).decText[0] = 0x2D := by decide

/-- "z" with its unread bytes changed. -/
theorem witness_DecodeReadsOnlyTheBytesOfItsInput :
    ∃ (s t : State) (text : Vector Byte 16), text ≠ s.decText
      ∧ (∀ j : Fin 16, j.val < 14 → j.val < s.decLen.toNat → text[j] = s.decText[j])
      ∧ exec .decode s = .next t :=
  ⟨withText [0x7A], _, bufferOf 16 [0x7A, 0x21], by decide, by decide, rfl⟩

/-- "z" and "Z". -/
theorem witness_DecodeIgnoresAsciiCase :
    ∃ (s t : State) (text : Vector Byte 16), text ≠ s.decText
      ∧ (∀ j : Fin 16, lc text[j] = lc s.decText[j]) ∧ exec .decode s = .next t :=
  ⟨withText [0x7A], _, bufferOf 16 [0x5A], by decide, by decide, rfl⟩

/-- −36 under the default alphabet, and the state that holds its string as DECODE's input. -/
theorem witness_DecodeInvertsEncodeOnValues :
    ∃ s t u : State, BlockInvariant s ∧ s.cfgValid = true
      ∧ (∀ d : Fin 36, ¬ (0x41 ≤ (s.actAlpha[d]).toNat ∧ (s.actAlpha[d]).toNat ≤ 0x5A))
      ∧ (∀ d : Fin 36, 1 ≤ d.val → s.actAlpha[d] ≠ 0x2D) ∧ s.valIn.toInt ≠ -2 ^ 63
      ∧ exec .encode s = .next t ∧ u.decLen.toNat = t.encLen.toNat ∧ u.decText = t.encText
      ∧ u.actAlpha = t.actAlpha ∧ u.cfgValid = t.cfgValid :=
  ⟨withValue 0xFFFFFFFF 0xFFFFFFDC, _, withText [0x2D, 0x31, 0x30],
    withValue_invariant _ _, rfl, by decide +kernel, defaultAlphabet_noMinus, by decide, rfl,
    by decide +kernel, by decide +kernel, rfl, rfl⟩

/-- k at both ends of its range. -/
theorem witness_WeightRomHoldsThePowersOf36 : 0 ≤ 12 ∧ 12 ≤ 12 := by decide

theorem witness_ReverseMapInvertsTheAlphabet :
    defaultAlphabet.toList.Nodup ∧ rmap defaultAlphabet 0x7A = some 35
      ∧ rmap defaultAlphabet 0x5A = none := by decide +kernel

/-- 'A', 'Z', and the bytes beside them. -/
theorem witness_LowerCasingIsAsciiOnly :
    (∀ b ∈ [(0x41 : Byte), 0x5A], 0x41 ≤ b.toNat ∧ b.toNat ≤ 0x5A)
      ∧ ∀ b ∈ [(0x40 : Byte), 0x5B, 0xC1], ¬ (0x41 ≤ b.toNat ∧ b.toNat ≤ 0x5A) := by decide

theorem witness_OperandsAreFrozenWhileBusy :
    ∃ s t : State, s.busy = true ∧ nextTurn s ≠ .reset ∧ nextTurn s ≠ .core
      ∧ step s = .next t :=
  ⟨busyScheduled [.hostWrite 4 7], _, rfl, by decide, by decide, rfl⟩

theorem witness_ResultsChangeOnlyAtCompletion :
    ∃ s t : State, step s = .next t ∧ nextTurn s ≠ .reset ∧ ¬ completesNext s :=
  ⟨scheduled [.hostWrite 2 2], _, rfl, by decide, fun h => absurd h.1 (by decide)⟩

theorem witness_DatapathRegistersAreUnobservable :
    ∃ t, exec .encode (withValue 0 36) = .next t := ⟨_, rfl⟩

theorem witness_LaterOfCompletionAndClearWins :
    (busyScheduled [.core, .hostWrite 3 2]).busy = true
      ∧ (busyScheduled [.core, .hostWrite 3 2]).schedule = .core :: .hostWrite 3 2 :: []
      ∧ (busyScheduled [.hostWrite 3 2, .core]).busy = true
      ∧ (busyScheduled [.hostWrite 3 2, .core]).schedule = .hostWrite 3 2 :: .core :: [] := by
  decide

/-- A poll, a dropped write and a CTRL write before the completion. -/
theorem witness_ResultsDoNotDependOnTheLatency :
    ∃ (s t u : State) (accesses rest : List Turn), s.busy = true
      ∧ (∀ a ∈ accesses, a.isHost = true) ∧ accesses.length = 3
      ∧ Sys2Proof.core.run (accesses.length + 1)
          { s with schedule := accesses ++ .core :: rest } = .next t
      ∧ Sys2Proof.core.run 1 { s with schedule := .core :: rest } = .next u :=
  ⟨busyScheduled [], _, _, [.hostRead 3, .hostWrite 4 7, .hostWrite 1 1], [], rfl, by decide, rfl,
    rfl, rfl⟩

theorem witness_EveryAcceptedCommandEndsInBoundedSteps :
    (busyScheduled [.hostRead 3, .hostWrite 2 1]).busy = true := by decide

theorem witness_EveryStepKeepsTheInvariant :
    ∃ s t : State, BlockInvariant s ∧ step s = .next t ∧ t.encLen = 2 := by
  refine ⟨pending (withValue 0 36) 2, _, ?_, rfl, by decide +kernel⟩
  have h := withValue_invariant 0 36
  exact ⟨h.distinct, by decide, h.length, h.padding, h.range⟩

theorem witness_EncSequenceEncodesItsValue :
    (scheduled (encSequence (-36) 2)).busy = false ∧ (scheduled (encSequence (-36) 2)).cfgValid = true
      ∧ -2 ^ 63 < (-36 : Int) ∧ (-36 : Int) < 2 ^ 63
      ∧ (scheduled (encSequence (-36) 2)).schedule = encSequence (-36) 2 ++ [] :=
  ⟨rfl, rfl, by decide, by decide, by simp [scheduled]⟩

theorem witness_DecSequenceDecodesItsString :
    ∃ (s u : State) (str : List Byte) (polls : Nat) (rest : List Turn), s.busy = false
      ∧ s.schedule = decSequence str polls ++ rest
      ∧ exec .decode { s with decLen := lengthWord str, decText := bufferOf 16 str } = .next u :=
  ⟨scheduled (decSequence [0x7A] 1 ++ []), _, [0x7A], 1, [], rfl, rfl, rfl⟩

/-- A string of 36 distinct bytes, and the empty string. -/
theorem witness_CfgSequenceConstructsTheCodec :
    (scheduled (cfgSequence defaultAlphabet.toList 0)).busy = false
      ∧ (defaultAlphabet.toList.length = 36 ∧ defaultAlphabet.toList.Nodup)
      ∧ ¬ (([] : List Byte).length = 36 ∧ ([] : List Byte).Nodup)
      ∧ (scheduled (cfgSequence defaultAlphabet.toList 0)).schedule
          = cfgSequence defaultAlphabet.toList 0 ++ [] :=
  ⟨rfl, ⟨by decide, by decide +kernel⟩, by decide, by simp [scheduled]⟩

end Sys2Proof.Tests
end

/-! PROOFS of the statements about the block's state (10_state.md): its invariant, OVR, IRQ, the
codec registers, the tables, the datapath registers and the values after reset. First what the
operations do to single registers and to the invariant, then the statements. -/

namespace Sys2Proof.Machine

/-! ### Buffers and tables -/

/-- Past the end of its string a buffer holds 0x00 (42_encode.md R146). -/
theorem byteAt_bufferOf_of_ge (n : Nat) (str : List Byte) (j : Nat) (h : str.length ≤ j) :
    byteAt (bufferOf n str) j = 0 := by
  by_cases hj : j < n
  · rw [byteAt_bufferOf n str j hj, List.getElem?_eq_none h, Option.getD_none]
  · exact byteAt_of_ge _ j (by omega)

/-- The weight ROM in positional terms (10_state.md R44). -/
theorem weight_eq_pow : ∀ k, k ≤ 12 → (weight k).toNat = 36 ^ k := by decide

/-- The default alphabet repeats no byte (10_state.md R45). -/
theorem defaultAlphabet_nodup : defaultAlphabet.toList.Nodup :=
  (hasDuplicate_eq_false_iff _).mp (by decide +kernel)

/-- The reverse map answers ABSENT exactly where no position holds the byte. -/
theorem rmap_eq_none_iff (alpha : Vector Byte 36) (c : Byte) :
    rmap alpha c = none ↔ ∀ i : Fin 36, alpha[i] ≠ c := by
  simp [rmap, List.find?_eq_none]

/-! ### The words CTRL and STATUS read as -/

@[simp] theorem hostRead_ctrl (s : State) : hostRead s 1 = ctrlWord s := rfl

@[simp] theorem hostRead_status (s : State) : hostRead s 3 = statusWord s := rfl

/-- Bit 0 of CTRL is IE (10_state.md R25). -/
@[simp] theorem ctrlWord_bit_ie (s : State) : (ctrlWord s).getLsbD 0 = s.ie := by
  simp only [ctrlWord, BitVec.getLsbD_append]
  simp

/-- Bit 1 of STATUS is DONE (10_state.md R27). -/
@[simp] theorem statusWord_bit_done (s : State) : (statusWord s).getLsbD 1 = s.done := by
  simp only [statusWord, BitVec.getLsbD_append]
  simp

/-- CTRL reads IE in bit 0 and 0 in bits 31:1 (10_state.md R25). -/
theorem ctrlWord_writeCtrl (s : State) (d : Word) : ctrlWord (s.writeCtrl d) = d &&& 1 := by
  apply BitVec.eq_of_getLsbD_eq
  intro j _
  simp only [ctrlWord, BitVec.getLsbD_append, State.writeCtrl_ie, BitVec.getLsbD_and]
  cases j with
  | zero => simp
  | succ j => simp [BitVec.getLsbD_one]

/-! ### Completion and reset steps -/

/-- A completion step is the meaning of the command in PEND. -/
theorem step_of_completesNext (s : State) (h : completesNext s) :
    step s = exec (decodeWord s.pend) s.popTurn := by
  obtain ⟨hbusy, hturn⟩ := h
  rw [step, hturn]
  exact takeTurn_core_busy s.popTurn hbusy

/-- A completion step of CONFIG. -/
theorem step_of_config (s : State) (h : completesNext s) (hi : decodeWord s.pend = .config) :
    step s = execConfig s.popTurn := by
  rw [step_of_completesNext s h, hi]
  rfl

theorem step_of_reset (s : State) (h : nextTurn s = .reset) :
    step s = .next s.popTurn.applyReset := by
  rw [step, h]
  rfl

/-- No command writes OVR (10_state.md R31). -/
theorem exec_ovr {i : Instr} {s t : State} (h : exec i s = .next t) : t.ovr = s.ovr := by
  obtain ⟨u, code, hu, -, -, hovr, -, -, -⟩ := exec_completes i s
  cases hu.symm.trans h
  exact hovr

/-- Only CONFIG writes ALPHA and CFG_VALID (10_state.md R53). -/
theorem exec_codec_of_ne_config {i : Instr} {s t : State} (hi : i ≠ .config)
    (h : exec i s = .next t) : t.actAlpha = s.actAlpha ∧ t.cfgValid = s.cfgValid := by
  cases i with
  | config => exact absurd rfl hi
  | nop | illegalOpLow | illegalOpHigh | illegalRsvd => cases h; exact ⟨rfl, rfl⟩
  | encode =>
    rcases execEncode_cases s with ⟨-, e⟩ | ⟨-, -, e⟩ | ⟨-, -, -, e⟩ <;>
      cases e.symm.trans h <;> exact ⟨rfl, rfl⟩
  | decode =>
    rcases execDecode_cases s with ⟨-, e⟩ | ⟨-, -, e⟩ | ⟨-, -, -, e⟩ |
      ⟨d, -, -, -, ⟨-, e⟩ | ⟨-, e⟩⟩ <;> cases e.symm.trans h <;> exact ⟨rfl, rfl⟩

/-- CONFIG installs the staging alphabet it accepts (41_construction.md R123). -/
theorem execConfig_of_accepted {s : State} (ha : alphabetAccepted s) :
    execConfig s = .next (s.installAlphabet.complete .ok) := by
  rcases execConfig_cases s with ⟨hlen, -⟩ | ⟨-, hdup, -⟩ | ⟨-, e⟩
  · exact absurd ha.1 hlen
  · exact absurd ha.2 hdup
  · exact e

/-- CONFIG leaves ALPHA and clears CFG_VALID where it does not accept (41_construction.md R124). -/
theorem execConfig_of_not_accepted {s : State} (ha : ¬ alphabetAccepted s) :
    ∃ code, execConfig s = .next (s.invalidateCodec.complete code) := by
  rcases execConfig_cases s with ⟨-, e⟩ | ⟨-, -, e⟩ | ⟨hacc, -⟩
  · exact ⟨_, e⟩
  · exact ⟨_, e⟩
  · exact absurd hacc ha

/-! ### Host writes -/

/-- Write 1 to clear, as a choice on the bit written (10_state.md R27). -/
theorem and_not_eq_ite (held bit : Bool) : (held && !bit) = if bit = true then false else held := by
  cases bit <;> simp

/-- OVR after a host write: set by a drop, cleared by a write of 1 to its bit of STATUS
(10_state.md R31). -/
theorem hostWrite_ovr_iff (s : State) (w : HostIndex) (d : Word) :
    (hostWrite s w d).ovr = true ↔
      (busyProtected w = true ∧ s.busy = true)
        ∨ (s.ovr = true ∧ (w = 3 → d.getLsbD 3 = false)) := by
  rcases hostWrite_cases s w d with ⟨hw, e⟩ | ⟨hw, e⟩ | ⟨hw, e⟩ | ⟨hw, hb, e⟩ | ⟨hw, hb, e⟩ |
    ⟨hw, -, hb, lo, hi, dl, cl, dt, ca, e⟩ <;> rw [e]
  · obtain ⟨hp, -, (h3 : w ≠ 3#6), -⟩ := writeIgnored_excludes w hw
    simp [hp, h3]
  · simp [hw, busyProtected]
  · simp [hw, busyProtected]
  · simp [hw, hb]
  · simp [hw, hb]
  · obtain ⟨-, (h3 : w ≠ 3#6)⟩ := busyProtected_excludes w hw
    simp [hb, h3]

/-- A host write never leaves BUSY and DONE both 1 (40_command_control.md R100). -/
theorem hostWrite_phase (s : State) (w : HostIndex) (d : Word)
    (h : ¬ (s.busy = true ∧ s.done = true)) :
    ¬ ((hostWrite s w d).busy = true ∧ (hostWrite s w d).done = true) := by
  rcases hostWrite_cases s w d with ⟨-, e⟩ | ⟨-, e⟩ | ⟨-, e⟩ | ⟨-, -, e⟩ | ⟨-, -, e⟩ |
    ⟨-, -, -, lo, hi, dl, cl, dt, ca, e⟩
  · rw [e]; exact h
  · rw [e]; exact h
  · rw [e]
    rintro ⟨hb, hd⟩
    rw [State.writeStatus_done, Bool.and_eq_true] at hd
    exact h ⟨hb, hd.1⟩
  · rw [e]; exact h
  · simp [e]
  · rw [e]; exact h

/-! ### The invariant, operation by operation -/

/-- The invariant speaks of the results, BUSY and DONE only. -/
theorem BlockInvariant.of_sameResults {s t : State} (h : BlockInvariant s) (hr : sameResults s t)
    (hp : ¬ (t.busy = true ∧ t.done = true)) : BlockInvariant t := by
  obtain ⟨hlo, hhi, hlen, htext, halpha, hvalid, -, -⟩ := hr
  refine ⟨?_, hp, ?_, ?_, ?_⟩
  · rw [halpha, hvalid]; exact h.distinct
  · rw [hlen]; exact h.length
  · rw [hlen, htext]; exact h.padding
  · rw [State.valOut, hlo, hhi]; exact h.range

theorem BlockInvariant.popTurn {s : State} (h : BlockInvariant s) : BlockInvariant s.popTurn :=
  h.of_sameResults (by simp [sameResults]) h.phase

theorem BlockInvariant.latchRead {s : State} (h : BlockInvariant s) (w : HostIndex) :
    BlockInvariant (s.latchRead w) :=
  h.of_sameResults (by simp [sameResults]) h.phase

theorem BlockInvariant.hostWrite {s : State} (h : BlockInvariant s) (w : HostIndex) (d : Word) :
    BlockInvariant (hostWrite s w d) :=
  h.of_sameResults (hostWrite_sameResults s w d) (hostWrite_phase s w d h.phase)

/-- Completion ends BUSY as it sets DONE (40_command_control.md R104). -/
theorem BlockInvariant.complete {s : State} (h : BlockInvariant s) (code : StatusCode) :
    BlockInvariant (s.complete code) :=
  ⟨h.distinct, by simp, h.length, h.padding, h.range⟩

theorem BlockInvariant.invalidateCodec {s : State} (h : BlockInvariant s) :
    BlockInvariant s.invalidateCodec :=
  ⟨by simp, h.phase, h.length, h.padding, h.range⟩

theorem BlockInvariant.installAlphabet {s : State} (h : BlockInvariant s)
    (ha : s.cfgAlpha.toList.Nodup) : BlockInvariant s.installAlphabet :=
  ⟨fun _ => ha, h.phase, h.length, h.padding, h.range⟩

/-- ENCODE's result is a string of at most 14 bytes, with 0x00 after it (10_state.md R37, R40). -/
theorem BlockInvariant.finishEncode {s : State} (h : BlockInvariant s) {str : List Byte}
    (hlen : str.length ≤ 14) (code : StatusCode) : BlockInvariant (finishEncode s str code) := by
  have henc : (BitVec.ofNat 5 str.length).toNat = str.length := by
    rw [BitVec.toNat_ofNat]; exact Nat.mod_eq_of_lt (by omega)
  refine ⟨h.distinct, by simp, ?_, fun j hj => ?_, h.range⟩
  · exact henc.trans_le hlen
  · exact byteAt_bufferOf_of_ge 16 str j (henc.symm.trans_le hj)

/-- DECODE's result is any 64-bit value but −2^63 (43_decode.md R175). -/
theorem BlockInvariant.finishDecode {s : State} (h : BlockInvariant s) {x : BitVec 64}
    (hx : s64 x ≠ -2 ^ 63) (code : StatusCode) : BlockInvariant (finishDecode s x code) := by
  refine ⟨h.distinct, by simp, h.length, h.padding, ?_⟩
  show s64 (pairValue (hiHalf x) (loHalf x)) ≠ -2 ^ 63
  rwa [pairValue_halves]

/-- The value of at most 63 bits that DECODE returns, with either sign, is not −2^63
(43_decode.md R175). -/
theorem s64_signedResult_ne_min (s : State) {x : Nat} (hx : x ≤ 2 ^ 63 - 1) :
    s64 (signedResult s x) ≠ -2 ^ 63 := by
  rw [signedResult, s64_bits64 _ (by split <;> omega) (by split <;> omega)]
  split <;> omega

/-- Every command keeps the invariant. -/
theorem BlockInvariant.exec {i : Instr} {s t : State} (h : BlockInvariant s)
    (he : exec i s = .next t) : BlockInvariant t := by
  have hzero : s64 0 ≠ -2 ^ 63 := by decide
  cases i with
  | nop | illegalOpLow | illegalOpHigh | illegalRsvd => cases he; exact h.complete _
  | config =>
    rcases execConfig_cases s with ⟨-, e⟩ | ⟨-, -, e⟩ | ⟨⟨-, hnodup⟩, e⟩ <;> cases e.symm.trans he
    · exact h.invalidateCodec.complete _
    · exact h.invalidateCodec.complete _
    · exact (h.installAlphabet hnodup).complete _
  | encode =>
    rcases execEncode_cases s with ⟨-, e⟩ | ⟨-, -, e⟩ | ⟨-, hlo, hhi, e⟩ <;> cases e.symm.trans he
    · exact h.finishEncode (by simp) _
    · exact h.finishEncode (by simp) _
    · exact h.finishEncode (encodeText_length_le _ _ hlo hhi) _
  | decode =>
    rcases execDecode_cases s with ⟨-, e⟩ | ⟨-, -, e⟩ | ⟨-, -, -, e⟩ |
      ⟨d, -, -, -, ⟨-, e⟩ | ⟨hx, e⟩⟩ <;> cases e.symm.trans he
    · exact h.finishDecode hzero _
    · exact h.finishDecode hzero _
    · exact h.finishDecode hzero _
    · exact h.finishDecode hzero _
    · exact h.finishDecode (s64_signedResult_ne_min s hx) _

/-- The invariant at reset: the default alphabet is valid and distinct, no command runs, and the
results are zero (10_state.md R52). -/
theorem blockInvariant_reset : BlockInvariant State.reset where
  distinct _ := defaultAlphabet_nodup
  phase := by decide
  length := by decide
  padding j _ := by
    show byteAt (Vector.replicate 16 0) j = 0
    rw [← bufferOf_nil]
    exact byteAt_bufferOf_of_ge 16 [] j (Nat.zero_le j)
  range := by decide

theorem blockInvariant_applyReset (s : State) : BlockInvariant s.applyReset :=
  blockInvariant_reset.of_sameResults (by simp [sameResults]) blockInvariant_reset.phase

/-! ### The datapath registers -/

/-- The state with other datapath registers (10_state.md R48, R49). -/
def State.withDatapath (s : State) (p : EncodePath) (q : DecodePath) : State :=
  { s with encPath := p, decPath := q }

/-- ENCODE as a function of CFG_VALID, ALPHA and VAL_IN: the datapath registers have no part in
it. -/
theorem execEncode_eq (s : State) :
    execEncode s =
      if s.cfgValid = false then .next (finishEncode s [] .notConfigured)
      else if s.valIn.toInt = -2 ^ 63 then .next (finishEncode s [] .encodeRange)
      else .next (finishEncode s (encodeText s.actAlpha s.valIn.toInt) .ok) := by
  rcases execEncode_cases s with ⟨hc, e⟩ | ⟨hc, hv, e⟩ | ⟨hc, hlo, -, e⟩
  · rw [e, if_pos hc]
  · rw [e, if_neg (by simp [hc]), if_pos hv]
  · rw [e, if_neg (by simp [hc]), if_neg (by omega)]

/-- CONFIG neither reads nor writes the datapath registers. -/
theorem execConfig_withDatapath {s t : State} (p : EncodePath) (q : DecodePath)
    (h : execConfig s = .next t) :
    execConfig (s.withDatapath p q) = .next (t.withDatapath p q) := by
  unfold execConfig at h ⊢
  change (if s.cfgLen ≠ 36 then _ else if hasDuplicate s.cfgAlpha.toList then _ else _) = _
  split_ifs at h ⊢ <;> cases h <;> rfl

/-- ENCODE ends with one string and one code, whatever the datapath registers hold. -/
theorem execEncode_withDatapath (s : State) (p : EncodePath) (q : DecodePath) :
    ∃ str code, execEncode s = .next (finishEncode s str code)
      ∧ execEncode (s.withDatapath p q) = .next (finishEncode (s.withDatapath p q) str code) := by
  rw [execEncode_eq, execEncode_eq (s.withDatapath p q)]
  change ∃ str code, _ ∧
    (if s.cfgValid = false then _ else if s.valIn.toInt = -2 ^ 63 then _ else _) = _
  split_ifs <;> exact ⟨_, _, rfl, rfl⟩

/-- DECODE ends with one value and one code, whatever the datapath registers hold: its run starts
from registers of its own (43_decode.md R160). -/
theorem execDecode_withDatapath (s : State) (p : EncodePath) (q : DecodePath) :
    ∃ x code, execDecode s = .next (finishDecode s x code)
      ∧ execDecode (s.withDatapath p q) = .next (finishDecode (s.withDatapath p q) x code) := by
  have hrun : decodeRun (s.withDatapath p q) = decodeRun s := rfl
  unfold execDecode
  rw [hrun]
  change ∃ x code, _ ∧ (if s.cfgValid = false then _ else if 13 < decodeCount s then _ else _) = _
  dsimp only
  split_ifs <;> exact ⟨_, _, rfl, rfl⟩

/-- Other datapath registers before a command make a difference only to those after it. -/
theorem exec_withDatapath (i : Instr) {s t : State} (p : EncodePath) (q : DecodePath)
    (h : exec i s = .next t) :
    ∃ p' q', exec i (s.withDatapath p q) = .next (t.withDatapath p' q') := by
  cases i with
  | nop | illegalOpLow | illegalOpHigh | illegalRsvd => cases h; exact ⟨p, q, rfl⟩
  | config => exact ⟨p, q, execConfig_withDatapath p q h⟩
  | encode =>
    obtain ⟨str, code, e, e'⟩ := execEncode_withDatapath s p q
    cases e.symm.trans h
    exact ⟨_, q, e'⟩
  | decode =>
    obtain ⟨x, code, e, e'⟩ := execDecode_withDatapath s p q
    cases e.symm.trans h
    exact ⟨p, _, e'⟩

/-! ### The statements -/

/-- Settles O56: each kind of step is an operation that keeps the invariant. -/
theorem everyStepKeepsTheInvariant : Obligations.EveryStepKeepsTheInvariant := by
  intro s t h hs
  have hpop := h.popTurn
  rcases step_cases hs with ⟨w, -, rfl⟩ | ⟨w, d, -, rfl⟩ | ⟨-, he⟩ | ⟨-, -, rfl⟩ | ⟨-, rfl⟩
  · exact hpop.latchRead w
  · exact hpop.hostWrite w d
  · exact hpop.exec he
  · exact hpop
  · exact blockInvariant_applyReset s.popTurn

/-- Settles O15: of the steps only a host write can set or clear OVR, and reset clears it. -/
theorem overrunIsSetByDropsAndSticks : Obligations.OverrunIsSetByDropsAndSticks := by
  refine ⟨fun s t hs => ?_, fun s b => rfl⟩
  rcases step_cases hs with ⟨w, hn, rfl⟩ | ⟨w, d, hn, rfl⟩ | ⟨⟨-, hn⟩, he⟩ | ⟨hn, -, rfl⟩ |
    ⟨hn, rfl⟩
  · simp [hn]
  · rw [hostWrite_ovr_iff]
    simp [hn]
  · simp [hn, exec_ovr he]
  · simp [hn]
  · simp [hn, State.reset]

/-- Settles O16: IRQ by the two bits, and DONE by what every completion does. -/
theorem interruptIsEnableAndDone : Obligations.InterruptIsEnableAndDone := by
  refine ⟨fun s => ?_, fun s h => ?_⟩
  · rw [hostRead_ctrl, hostRead_status, ctrlWord_bit_ie, statusWord_bit_done, State.irq]
  · obtain ⟨u, code, hu, -, hie, -⟩ := exec_completes (decodeWord s.pend) s.popTurn
    refine ⟨u.complete code, (step_of_completesNext s h).trans hu, rfl, ?_⟩
    simp [State.irq, hie]

/-- Settles O28, by the kinds of step: reset and a completion of CONFIG are the two that write the
codec. -/
theorem codecChangesOnlyByConfigAndReset : Obligations.CodecChangesOnlyByConfigAndReset := by
  intro s t hs
  refine ⟨fun hn => ?_, fun hc hi ha => ?_, fun hc hi ha => ?_, fun hn hnc => ?_⟩
  · cases (step_of_reset s hn).symm.trans hs
    exact ⟨rfl, rfl⟩
  · cases ((step_of_config s hc hi).trans (execConfig_of_accepted ha)).symm.trans hs
    exact ⟨rfl, rfl⟩
  · obtain ⟨code, e⟩ := execConfig_of_not_accepted (s := s.popTurn) ha
    cases ((step_of_config s hc hi).trans e).symm.trans hs
    exact ⟨rfl, rfl⟩
  · rcases step_cases hs with ⟨w, -, rfl⟩ | ⟨w, d, -, rfl⟩ | ⟨hc, he⟩ | ⟨-, -, rfl⟩ | ⟨hr, -⟩
    · exact ⟨rfl, rfl⟩
    · obtain ⟨-, -, -, -, halpha, hvalid, -, -⟩ := hostWrite_sameResults s.popTurn w d
      exact ⟨halpha, hvalid⟩
    · exact exec_codec_of_ne_config (s := s.popTurn) (fun hi => hnc ⟨hc, hi⟩) he
    · exact ⟨rfl, rfl⟩
    · exact absurd hr hn

/-- Settles O48, from the lookup's two outcomes. -/
theorem reverseMapInvertsTheAlphabet : Obligations.ReverseMapInvertsTheAlphabet := by
  intro alpha c
  refine ⟨fun i hi => ((rmap_eq_some_iff alpha c i).mp hi).1, rmap_eq_none_iff alpha c,
    fun hnodup i hi => (rmap_eq_some_iff alpha c i).mpr ⟨hi, fun j hj => ?_⟩⟩
  rw [← hi]
  exact (nodup_toList_iff alpha).mp hnodup j i (Fin.ne_of_lt hj)

/-- Settles O52, command by command. -/
theorem datapathRegistersAreUnobservable : Obligations.DatapathRegistersAreUnobservable :=
  fun i _ _ p q h => exec_withDatapath i p q h

/-- Settles O10: the write's turn is `writeCtrl`, and CTRL reads back bit 0 of the word. -/
theorem ctrlWriteSetsInterruptEnable : Obligations.CtrlWriteSetsInterruptEnable := by
  intro s d rest hs
  have hstep : step s = .next (State.writeCtrl { s with schedule := rest } d) :=
    step_hostWrite s 1 d rest hs
  refine ⟨hstep, fun t ht => ?_⟩
  cases hstep.symm.trans ht
  exact ctrlWord_writeCtrl _ d

/-- Settles O11: the write's turn is `writeStatus`. -/
theorem statusWriteClearsDoneAndOverrun : Obligations.StatusWriteClearsDoneAndOverrun := by
  intro s d rest hs
  have hstep : step s = .next (State.writeStatus { s with schedule := rest } d) :=
    step_hostWrite s 3 d rest hs
  rw [hstep, State.writeStatus, and_not_eq_ite, and_not_eq_ite]

/-- Settles O18: the registers and buffers, then ALPHA's words from index 32 on, the weight ROM and
IRQ. -/
theorem resetStateHoldsTheListedValues : Obligations.ResetStateHoldsTheListedValues := by
  refine ⟨rfl, rfl, ?status, ?valIn, ?valOut, rfl, rfl, rfl, rfl, rfl, rfl, rfl,
    ?w32, ?w33, ?w34, ?w35, ?w36, ?w37, ?w38, ?w39, ?w40, weight_eq_pow, rfl⟩
  all_goals decide

/-- Settles O47: the entries, and the first power that exceeds 63 bits. -/
theorem weightRomHoldsThePowersOf36 : Obligations.WeightRomHoldsThePowersOf36 :=
  ⟨weight_eq_pow, by norm_num⟩

/-- Settles O57: every clause of the invariant on the reset values. -/
theorem resetHasTheInvariant : Obligations.ResetHasTheInvariant := blockInvariant_reset

end Sys2Proof.Machine

/-! PROOFS of the statements about the host's register space (20_memory.md): what a read returns, what
a write to each class of word index does, what is frozen while a command is pending. First the reads
and writes, register by register, then the steps, then the statements. -/

namespace Sys2Proof.Machine

/-! ### What a read returns -/

theorem hostRead_decText (s : State) (k : Fin 4) :
    hostRead s (BitVec.ofNat 6 (12 + k.val)) = packWord s.decText k := by
  rw [hostRead, hostReg_decText]

theorem hostRead_encText (s : State) (k : Fin 4) :
    hostRead s (BitVec.ofNat 6 (16 + k.val)) = packWord s.encText k := by
  rw [hostRead, hostReg_encText]

theorem hostRead_cfgAlpha (s : State) (k : Fin 9) :
    hostRead s (BitVec.ofNat 6 (20 + k.val)) = packWord s.cfgAlpha k := by
  rw [hostRead, hostReg_cfgAlpha]

theorem hostRead_actAlpha (s : State) (k : Fin 9) :
    hostRead s (BitVec.ofNat 6 (32 + k.val)) = packWord s.actAlpha k := by
  rw [hostRead, hostReg_actAlpha]

/-- The indices that the table of 10_state.md R23 leaves out are reserved. -/
theorem hostReg_reserved : ∀ w : HostIndex,
    w.toNat = 11 ∨ (29 ≤ w.toNat ∧ w.toNat ≤ 31) ∨ 41 ≤ w.toNat → hostReg w = .reserved := by
  decide

theorem hostRead_reserved (s : State) {w : HostIndex} (h : hostReg w = .reserved) :
    hostRead s w = 0 := by
  rw [hostRead, h]

/-- The bytes of a buffer stand in its words four by four, the lowest first (20_memory.md R65). -/
theorem packWord_byte {n : Nat} (v : Vector Byte n) (j : Fin n) :
    (packWord v (j.val / 4)).extractLsb' (8 * (j.val % 4)) 8 = v[j] :=
  (byteOfWord_packWord v j.val).trans (byteAt_fin v j)

/-- A bit field put above another counts from that one's width on. -/
theorem toNat_append_eq_add {m n : Nat} (x : BitVec m) (y : BitVec n) :
    (x ++ y).toNat = x.toNat * 2 ^ n + y.toNat := by
  rw [BitVec.toNat_append, ← Nat.shiftLeft_add_eq_or_of_lt y.isLt, Nat.shiftLeft_eq]

/-- CTRL as a number (10_state.md R25). -/
theorem ctrlWord_eq_ofNat (s : State) : ctrlWord s = BitVec.ofNat 32 s.ie.toNat := by
  apply BitVec.eq_of_toNat_eq
  have hie := s.ie.toNat_le
  simp only [ctrlWord, toNat_append_eq_add, BitVec.toNat_ofBool, BitVec.toNat_ofNat]
  omega

/-- STATUS as a number: each field times the weight of its lowest bit (10_state.md R27). -/
theorem statusWord_eq_ofNat (s : State) :
    statusWord s = BitVec.ofNat 32 (s.busy.toNat + 2 * s.done.toNat + 4 * s.cfgValid.toNat
      + 8 * s.ovr.toNat + 256 * s.err.bits.toNat + 65536 * s.lastOp.toNat) := by
  apply BitVec.eq_of_toNat_eq
  have hbusy := s.busy.toNat_le
  have hdone := s.done.toNat_le
  have hvalid := s.cfgValid.toNat_le
  have hovr := s.ovr.toNat_le
  have herr := s.err.bits.isLt
  have hop := s.lastOp.isLt
  simp only [statusWord, toNat_append_eq_add, BitVec.toNat_ofBool, BitVec.toNat_ofNat]
  omega

/-! ### What a write to an operand register leaves to a read -/

/-- An index of an operand register shares its register with no other index. -/
theorem hostReg_ne_of_operand {w : HostIndex} (hp : busyProtected w = true) {w' : HostIndex}
    (hne : w' ≠ w) : hostReg w' ≠ hostReg w := by
  have hkept : ∀ v : HostIndex, busyProtected v = true → hostReg v ≠ .reserved := by decide
  intro e
  rcases hostReg_inj w' w e with hr | hw
  · exact hkept w hp (e.symm.trans hr)
  · exact hne hw

/-- A read between states that differ at most in the operand registers sees only the operand
register at its own index. A use names the registers that differ; the others are equal by
definition. -/
theorem hostRead_congr_operands {s t : State} {w : HostIndex}
    (ht : t = { s with
      schedule := t.schedule, valInLo := t.valInLo, valInHi := t.valInHi, decLen := t.decLen
      cfgLen := t.cfgLen, decText := t.decText, cfgAlpha := t.cfgAlpha })
    (hlo : hostReg w = .valInLo → t.valInLo = s.valInLo := by exact fun _ => rfl)
    (hhi : hostReg w = .valInHi → t.valInHi = s.valInHi := by exact fun _ => rfl)
    (hdl : hostReg w = .decLen → t.decLen = s.decLen := by exact fun _ => rfl)
    (hcl : hostReg w = .cfgLen → t.cfgLen = s.cfgLen := by exact fun _ => rfl)
    (hdt : ∀ k, hostReg w = .decText k → packWord t.decText k = packWord s.decText k := by
      exact fun _ _ => rfl)
    (hca : ∀ k, hostReg w = .cfgAlpha k → packWord t.cfgAlpha k = packWord s.cfgAlpha k := by
      exact fun _ _ => rfl) :
    hostRead t w = hostRead s w := by
  refine hostRead_congr s t w ?_ ?_ ?_ ?_ ?_ hlo hhi hdl hcl hdt hca <;> rw [ht]
  exact ⟨rfl, rfl, rfl, rfl, rfl, rfl, rfl, rfl⟩

/-! ### What a write does to the state -/

/-- A write to ID, to a read-only register or to a reserved index is ignored (20_memory.md R63). -/
theorem hostWrite_of_ignored (s : State) {w : HostIndex} (d : Word) (h : writeIgnored w = true) :
    hostWrite s w d = s := by
  obtain ⟨hp, h1, h3, h2⟩ := writeIgnored_excludes w h
  rcases hostWrite_cases s w d with ⟨-, e⟩ | ⟨hw, -⟩ | ⟨hw, -⟩ | ⟨hw, -, -⟩ | ⟨hw, -, -⟩ | ⟨hw, -⟩
  · exact e
  · exact absurd hw h1
  · exact absurd hw h3
  · simp [hp] at hw
  · exact absurd hw h2
  · simp [hp] at hw

/-! ### What a step does while a command is pending -/

/-- A command keeps the operands and PEND up to its completion and over it (40_command_control.md
R104; log 6). -/
theorem exec_sameOperands {i : Instr} {s t : State} (h : exec i s = .next t) :
    sameOperands s t := by
  obtain ⟨u, code, hu, -, -, -, -, -, hops⟩ := exec_completes i s
  cases hu.symm.trans h
  exact hops

/-- While busy a host write keeps the operands, PEND, ALPHA, CFG_VALID and BUSY
(40_command_control.md R106). -/
theorem hostWrite_busy_frozen (s : State) (w : HostIndex) (d : Word) (hb : s.busy = true) :
    sameOperands s (hostWrite s w d) ∧ (hostWrite s w d).actAlpha = s.actAlpha
      ∧ (hostWrite s w d).cfgValid = s.cfgValid ∧ (hostWrite s w d).busy = true := by
  obtain ⟨ie, ovr, dn, e⟩ := hostWrite_busy s w d hb
  rw [e]
  exact ⟨⟨rfl, rfl, rfl, rfl, rfl, rfl, rfl⟩, rfl, rfl, hb⟩

/-! ### The statements -/

/-- Settles O8, index by index; a buffer's bytes by the words that hold them. -/
theorem hostReadReturnsTheRegisterAndChangesNothing :
    Obligations.HostReadReturnsTheRegisterAndChangesNothing := by
  intro s
  refine ⟨fun w rest hs => step_hostRead s w rest hs, rfl, ctrlWord_eq_ofNat s, rfl,
    statusWord_eq_ofNat s, rfl, rfl, rfl, rfl, rfl, (BitVec.ofNat_toNat 32 s.encLen).symm, rfl,
    fun j => ?decText, fun j => ?encText, fun j => ?cfgAlpha, fun j => ?actAlpha,
    fun w hw => hostRead_reserved s (hostReg_reserved w hw)⟩
  case decText => rw [hostRead_decText s ⟨j.val / 4, by omega⟩, packWord_byte]
  case encText => rw [hostRead_encText s ⟨j.val / 4, by omega⟩, packWord_byte]
  case cfgAlpha => rw [hostRead_cfgAlpha s ⟨j.val / 4, by omega⟩, packWord_byte]
  case actAlpha => rw [hostRead_actAlpha s ⟨j.val / 4, by omega⟩, packWord_byte]

/-- Settles O14, operand register by operand register: each next state is the state with that register
written, and only its own index reads it. -/
theorem operandWriteWhileIdleIsReadBack : Obligations.OperandWriteWhileIdleIsReadBack := by
  intro s w d rest hs hp hcmd hidle
  have hother : ∀ w', w' ≠ w → hostReg w' ≠ hostReg w := fun w' => hostReg_ne_of_operand hp
  rcases busyProtected_indices w hp hcmd with rfl | rfl | rfl | rfl | ⟨k, rfl⟩ | ⟨k, rfl⟩
  · exact ⟨_, step_write_valInLo s d rest hidle hs, rfl, fun w' hw' =>
      hostRead_congr_operands rfl (hlo := fun e => absurd e (hother w' hw')), rfl⟩
  · exact ⟨_, step_write_valInHi s d rest hidle hs, rfl, fun w' hw' =>
      hostRead_congr_operands rfl (hhi := fun e => absurd e (hother w' hw')), rfl⟩
  · exact ⟨_, step_write_decLen s d rest hidle hs, rfl, fun w' hw' =>
      hostRead_congr_operands rfl (hdl := fun e => absurd e (hother w' hw')), rfl⟩
  · exact ⟨_, step_write_cfgLen s d rest hidle hs, rfl, fun w' hw' =>
      hostRead_congr_operands rfl (hcl := fun e => absurd e (hother w' hw')), rfl⟩
  · refine ⟨_, step_write_decText s k k.isLt d rest hidle hs,
      (hostRead_decText _ k).trans (packWord_setWord_same s.decText k d (by omega)),
      fun w' hw' => hostRead_congr_operands rfl (hdt := fun k' e => ?_), rfl⟩
    have hk : k' ≠ k := fun hk => hother w' hw' (by rw [e, hk, hostReg_decText])
    exact packWord_setWord_other s.decText k k' d (by omega) (Fin.val_ne_of_ne hk)
  · refine ⟨_, step_write_cfgAlpha s k k.isLt d rest hidle hs,
      (hostRead_cfgAlpha _ k).trans (packWord_setWord_same s.cfgAlpha k d (by omega)),
      fun w' hw' => hostRead_congr_operands rfl (hca := fun k' e => ?_), rfl⟩
    have hk : k' ≠ k := fun hk => hother w' hw' (by rw [e, hk, hostReg_cfgAlpha])
    exact packWord_setWord_other s.cfgAlpha k k' d (by omega) (Fin.val_ne_of_ne hk)

/-- Settles O50, by the kinds of step: a read changes no register, a write is dropped or goes to CTRL
or STATUS, and a completion keeps the operands. -/
theorem operandsAreFrozenWhileBusy : Obligations.OperandsAreFrozenWhileBusy := by
  intro s t hbusy hnoReset hs
  rcases step_cases hs with ⟨w, -, rfl⟩ | ⟨w, d, -, rfl⟩ | ⟨⟨-, hcore⟩, he⟩ | ⟨-, hidle, -⟩ |
    ⟨hr, -⟩
  · exact ⟨⟨rfl, rfl, rfl, rfl, rfl, rfl, rfl⟩, fun _ => ⟨rfl, rfl, hbusy⟩⟩
  · obtain ⟨hops, hcodec⟩ := hostWrite_busy_frozen s.popTurn w d hbusy
    exact ⟨hops, fun _ => hcodec⟩
  · exact ⟨exec_sameOperands (s := s.popTurn) he, fun hn => absurd hcore hn⟩
  · simp [hbusy] at hidle
  · exact absurd hr hnoReset

/-- Settles O7, turn by turn: the core's turn is a command, which completes, or an idle one. -/
theorem everyStepAnswersANextState : Obligations.EveryStepAnswersANextState := by
  intro s
  rw [step]
  cases nextTurn s with
  | hostRead w => exact ⟨_, rfl⟩
  | hostWrite w d => exact ⟨_, rfl⟩
  | reset => exact ⟨_, rfl⟩
  | core =>
    cases hb : s.popTurn.busy with
    | false => exact ⟨_, takeTurn_core_idle s.popTurn hb⟩
    | true =>
      obtain ⟨u, code, hu, -⟩ := exec_completes (decodeWord s.popTurn.pend) s.popTurn
      exact ⟨_, (takeTurn_core_busy s.popTurn hb).trans hu⟩

/-- Settles O9: the write's turn leaves the state that holds the turns after it. -/
theorem writeToReadOnlyOrReservedWordIsIgnored :
    Obligations.WriteToReadOnlyOrReservedWordIsIgnored := by
  intro s w d rest hs hw
  rw [step_hostWrite s w d rest hs, hostWrite_of_ignored _ d hw]

end Sys2Proof.Machine

/-! PROOFS of the statements about the commands and their words (30_encoding.md R80 to R85): what the
decoder answers, row by row of the opcode table, and that the encoder inverts it. -/

namespace Sys2Proof

/-! ### The fields of a word as numbers -/

theorem opField_eq_ofNat (w : Word) : opField w = BitVec.ofNat 4 (w.toNat % 16) := by
  rw [← opField_toNat, BitVec.ofNat_toNat, BitVec.setWidth_eq]

theorem rsvdField_eq_ofNat (w : Word) : rsvdField w = BitVec.ofNat 28 (w.toNat / 16) := by
  rw [← rsvdField_toNat, BitVec.ofNat_toNat, BitVec.setWidth_eq]

theorem rsvdField_eq_zero_iff (w : Word) : rsvdField w = 0 ↔ w.toNat < 16 := by
  rw [← BitVec.toNat_inj, rsvdField_toNat]
  exact Nat.div_eq_zero_iff_lt (by decide)

/-! ### What the decoder answers -/

/-- RSVD is looked at first (30_encoding.md R82, R83). -/
theorem decodeWord_of_rsvd {w : Word} (hr : rsvdField w ≠ 0) :
    decodeWord w = .illegalRsvd (opField w) (rsvdField w) := if_pos hr

/-- With RSVD zero an OP of at least 4 is reserved; bit 3 tells the rows apart (30_encoding.md R84). -/
theorem decodeWord_of_reservedOp {w : Word} (hr : rsvdField w = 0) (hop : 4 ≤ (opField w).toNat) :
    decodeWord w = if (opField w).toNat < 8 then .illegalOpLow (opField w)
      else .illegalOpHigh (opField w) := by
  have hne : ∀ k : BitVec 4, k.toNat < 4 → opField w ≠ k := by rintro k hk rfl; omega
  rw [decodeWord, if_neg (not_not.mpr hr), if_neg (hne 0 (by decide)), if_neg (hne 1 (by decide)),
    if_neg (hne 2 (by decide)), if_neg (hne 3 (by decide))]

/-- The seven rows of the opcode table, in the order of 30_encoding.md R82. -/
theorem decodeWord_cases (w : Word) :
    (rsvdField w ≠ 0 ∧ decodeWord w = .illegalRsvd (opField w) (rsvdField w))
      ∨ rsvdField w = 0 ∧
        ((opField w = 0 ∧ decodeWord w = .nop) ∨ (opField w = 1 ∧ decodeWord w = .config)
          ∨ (opField w = 2 ∧ decodeWord w = .encode) ∨ (opField w = 3 ∧ decodeWord w = .decode)
          ∨ (4 ≤ (opField w).toNat ∧ (opField w).toNat ≤ 7
              ∧ decodeWord w = .illegalOpLow (opField w))
          ∨ (8 ≤ (opField w).toNat ∧ decodeWord w = .illegalOpHigh (opField w))) := by
  by_cases hr : rsvdField w = 0
  · refine .inr ⟨hr, ?_⟩
    by_cases hop : 4 ≤ (opField w).toNat
    · have hd := decodeWord_of_reservedOp hr hop
      by_cases h8 : (opField w).toNat < 8
      · exact .inr (.inr (.inr (.inr (.inl ⟨hop, by omega, hd.trans (if_pos h8)⟩))))
      · exact .inr (.inr (.inr (.inr (.inr ⟨by omega, hd.trans (if_neg h8)⟩))))
    · have hlegal : ∀ k : BitVec 4, k.toNat < 4 → k = 0 ∨ k = 1 ∨ k = 2 ∨ k = 3 := by decide
      rcases hlegal (opField w) (by omega) with h | h | h | h <;> simp [decodeWord, hr, h]
  · exact .inl ⟨hr, decodeWord_of_rsvd hr⟩

/-- The decoder keeps both fields and answers a command of the row they name. -/
theorem decodeWord_fields (w : Word) :
    (decodeWord w).wellFormed = true ∧ (decodeWord w).op = opField w
      ∧ (decodeWord w).rsvd = rsvdField w := by
  rcases decodeWord_cases w with ⟨hr, h⟩ | ⟨hr, ⟨ho, h⟩ | ⟨ho, h⟩ | ⟨ho, h⟩ | ⟨ho, h⟩ |
    ⟨hlo, hhi, h⟩ | ⟨hlo, h⟩⟩ <;> rw [h]
  · exact ⟨decide_eq_true hr, rfl, rfl⟩
  · exact ⟨rfl, ho.symm, hr.symm⟩
  · exact ⟨rfl, ho.symm, hr.symm⟩
  · exact ⟨rfl, ho.symm, hr.symm⟩
  · exact ⟨rfl, ho.symm, hr.symm⟩
  · exact ⟨decide_eq_true ⟨hlo, hhi⟩, rfl, hr.symm⟩
  · exact ⟨decide_eq_true hlo, rfl, hr.symm⟩

/-- The word of a well-formed command decodes to it: its operand lies in the range of its own row
(30_encoding.md R82). -/
theorem decodeWord_encodeWord {i : Instr} (h : i.wellFormed = true) :
    decodeWord (encodeWord i) = i := by
  cases i with
  | nop | config | encode | decode => decide
  | illegalOpLow op =>
    obtain ⟨hlo, hhi⟩ := of_decide_eq_true h
    have hop : opField (encodeWord (.illegalOpLow op)) = op := opField_encodeWord _
    rw [decodeWord_of_reservedOp (rsvdField_encodeWord _) (by rwa [hop]), hop, if_pos (by omega)]
  | illegalOpHigh op =>
    have hlo : 8 ≤ op.toNat := of_decide_eq_true h
    have hop : opField (encodeWord (.illegalOpHigh op)) = op := opField_encodeWord _
    rw [decodeWord_of_reservedOp (rsvdField_encodeWord _) (by rw [hop]; omega), hop,
      if_neg (by omega)]
  | illegalRsvd op rsvd =>
    have hr : rsvd ≠ 0 := of_decide_eq_true h
    have hrsvd : rsvdField (encodeWord (.illegalRsvd op rsvd)) = rsvd := rsvdField_encodeWord _
    rw [decodeWord_of_rsvd (by rwa [hrsvd]), hrsvd, opField_encodeWord]
    rfl

/-- The host's question on 32 bits: the command of the word, read through its four bytes. -/
theorem decodeTableWord_of_decodeWord {n : Nat} {i : Instr} (hn : n < 2 ^ 32)
    (hi : decodeWord (BitVec.ofNat 32 n) = i) : decodeTableWord 32 n = some i := by
  have hb := decodeBytes_bytesOfWord (BitVec.ofNat 32 n) []
  rw [List.append_nil] at hb
  rw [decodeTableWord, if_pos (Nat.le_refl 32), Nat.mod_eq_of_lt hn, hb, hi]

/-! ### The statements -/

/-- Settles O3: the word by the rows of the table, the bytes by the word they make up. -/
theorem decodeInvertsEncode : Obligations.DecodeInvertsEncode := by
  intro i h
  refine ⟨decodeWord_encodeWord h, fun rest => ?_⟩
  rw [encodeBytes, decodeBytes_bytesOfWord, decodeWord_encodeWord h]

/-- Settles O1: RSVD is zero exactly below 16, and OP is the word's remainder by 16. -/
theorem commandWordsDecodeByRsvdThenOp : Obligations.CommandWordsDecodeByRsvdThenOp := by
  refine ⟨by decide, by decide, by decide, by decide, fun w h4 h7 => ?low, fun w h8 h15 => ?high,
    fun w h16 => ?rsvd⟩
  case low =>
    have hr : rsvdField w = 0 := (rsvdField_eq_zero_iff w).mpr (by omega)
    have ho := opField_toNat w
    rw [decodeWord_of_reservedOp hr (by omega), if_pos (by omega), opField_eq_ofNat,
      Nat.mod_eq_of_lt (by omega)]
  case high =>
    have hr : rsvdField w = 0 := (rsvdField_eq_zero_iff w).mpr (by omega)
    have ho := opField_toNat w
    rw [decodeWord_of_reservedOp hr (by omega), if_neg (by omega), opField_eq_ofNat,
      Nat.mod_eq_of_lt (by omega)]
  case rsvd =>
    have hr : rsvdField w ≠ 0 := fun h => Nat.not_lt.mpr h16 ((rsvdField_eq_zero_iff w).mp h)
    rw [decodeWord_of_rsvd hr, opField_eq_ofNat, rsvdField_eq_ofNat]

/-- Settles O4: the decoder keeps both fields of the word, and they make it up. -/
theorem everyWordIsTheWordOfItsCommand : Obligations.EveryWordIsTheWordOfItsCommand := by
  intro w
  obtain ⟨hwf, hop, hrsvd⟩ := decodeWord_fields w
  exact ⟨hwf, by rw [encodeWord, hop, hrsvd, rsvdField_append_opField]⟩

/-- Settles O2, each word by its bytes and then by the decoder. -/
theorem writtenWordsDecodeToTheirCommands : Obligations.WrittenWordsDecodeToTheirCommands := by
  refine ⟨?_, ?_, ?_, ?_, ?_, ?_, ?_, ?_⟩ <;>
    exact decodeTableWord_of_decodeWord (by decide) (by decide)

end Sys2Proof

/-! PROOFS of the statements about the pseudo-instructions (30_encoding.md R88, R89). A sequence writes
its operands, issues its command and waits: one rule for the writes of a buffer's words, one for the
issue with its WAIT, then what the command does in the state that the writes leave. -/

namespace Sys2Proof.Machine

/-! ### Strings in buffers -/

/-- A buffer gives back the string it was filled with. -/
theorem take_bufferOf {n : Nat} {str : List Byte} (h : str.length ≤ n) :
    (bufferOf n str).toList.take str.length = str := by
  apply List.ext_getElem
  · simpa using h
  · intro j _ hj
    simp [bufferOf, hj]

theorem toList_bufferOf {n : Nat} {str : List Byte} (h : str.length = n) :
    (bufferOf n str).toList = str := by
  rw [← List.take_of_length_le (l := (bufferOf n str).toList) (i := str.length) (by simp [h]),
    take_bufferOf (Nat.le_of_eq h)]

/-- The string that an ENCODE completes with is the one the host reads (42_encode.md R146, R147). -/
theorem outputString_finishEncode (s : State) {str : List Byte} (code : StatusCode)
    (h : str.length ≤ 14) : outputString (finishEncode s str code) = str := by
  have hlen : (BitVec.ofNat 5 str.length).toNat = str.length := Nat.mod_eq_of_lt (by omega)
  rw [outputString, finishEncode_encLen, finishEncode_encText, hlen]
  exact take_bufferOf (by omega)

theorem lengthWord_toNat (str : List Byte) :
    (lengthWord str).toNat = min str.length (2 ^ 32 - 1) := Nat.mod_eq_of_lt (by omega)

/-- A buffer after the writes of the words `ks` of another. -/
def writeWords {n : Nat} (b : Vector Byte n) (ks : List Nat) (v : Vector Byte n) : Vector Byte n :=
  ks.foldl (fun v k => setWord v k (packWord b k)) v

/-- The bytes of the written words are the other buffer's; the rest stay. -/
theorem byteAt_writeWords {n : Nat} (b : Vector Byte n) (ks : List Nat) (v : Vector Byte n) {j : Nat}
    (hj : j < n) : byteAt (writeWords b ks v) j = if j / 4 ∈ ks then byteAt b j else byteAt v j := by
  induction ks generalizing v with
  | nil => rfl
  | cons k ks ih =>
    have hrest : byteAt (writeWords b (k :: ks) v) j
        = if j / 4 ∈ ks then byteAt b j else byteAt (setWord v k (packWord b k)) j := ih _
    rw [hrest, byteAt_setWord v k _ j hj]
    by_cases hk : j / 4 = k
    · rw [if_pos hk, ← hk, byteOfWord_packWord, ite_self, if_pos List.mem_cons_self]
    · rw [if_neg hk]
      simp only [List.mem_cons, hk, false_or]

/-- All words written, nothing of the old buffer is left. -/
theorem writeWords_all (b v : Vector Byte 36) : writeWords b (List.range 9) v = b := by
  apply buffer_ext
  intro j hj
  rw [byteAt_writeWords b _ v hj, if_pos (List.mem_range.mpr (by omega))]

/-- The words of DT that `DEC "str"` writes (30_encoding.md R89). -/
def decWordIndices (str : List Byte) : List Nat := List.range ((min str.length 16 + 3) / 4)

/-- Below the length of its string DT holds the string, whatever it held before. -/
theorem byteAt_decWords (str : List Byte) (v : Vector Byte 16) {j : Nat} (hj : j < 16)
    (hl : j < (lengthWord str).toNat) :
    byteAt (writeWords (bufferOf 16 str) (decWordIndices str) v) j = byteAt (bufferOf 16 str) j := by
  rw [lengthWord_toNat] at hl
  rw [byteAt_writeWords _ _ v hj, decWordIndices, if_pos (List.mem_range.mpr (by omega))]

/-! ### Runs of a pseudo-instruction -/

/-- The writes of a buffer's words. `put rest v` is the state with the turns `rest` to come and the
buffer `v`; `hstep` is the step at the write of one word. -/
theorem run_writeWords {n : Nat} {base : Nat} {put : List Turn → Vector Byte n → State}
    (b : Vector Byte n) (rest : List Turn) (ks : List Nat)
    (hstep : ∀ k ∈ ks, ∀ d turns v,
      step (put (wr (base + k) d :: turns) v) = .next (put turns (setWord v k d))) :
    ∀ v, Sys2Proof.core.run ks.length
        (put (ks.map (fun k => wr (base + k) (packWord b k)) ++ rest) v)
      = .next (put rest (writeWords b ks v)) := by
  induction ks with
  | nil => exact fun _ => rfl
  | cons k ks ih =>
    intro v
    have hfirst := hstep k List.mem_cons_self (packWord b k)
      (ks.map (fun k => wr (base + k) (packWord b k)) ++ rest) v
    exact (run_succ ks.length _ _ hfirst).trans
      (ih (fun k' hk' => hstep k' (List.mem_cons_of_mem k hk')) _)

/-- The state in which the completion among a WAIT's turns finds the block: a command has been issued,
and the host has last read the word `r`. -/
def State.awaiting (s : State) (i : Instr) (r : Word) (rest : List Turn) : State :=
  { s.issue (encodeWord i) with schedule := rd 3 :: rest, readData := r }

/-- Every command ends idle (40_command_control.md R104). -/
theorem exec_idle {i : Instr} {s t : State} (h : exec i s = .next t) : t.busy = false := by
  obtain ⟨u, code, hu, -⟩ := exec_completes i s
  cases hu.symm.trans h
  rfl

/-- An issue and its WAIT take the block to the end of the issued command, idle (30_encoding.md R88).
The read that ends the WAIT changes only what the host last read. -/
theorem run_issue_wait {s : State} {i : Instr} {polls : Nat} {rest : List Turn}
    (hidle : s.busy = false) (hi : i.wellFormed = true)
    (h : s.schedule = wr 2 (encodeWord i) :: (waitTurns polls ++ rest)) :
    ∃ r u, exec i (s.awaiting i r rest) = .next u ∧ u.busy = false
      ∧ Sys2Proof.core.run ((waitTurns polls).length + 1) s
          = .next { u with schedule := rest, readData := hostRead u 3 } := by
  obtain ⟨r, u, hu, hrun⟩ := run_waitTurns
    (State.issue { s with schedule := waitTurns polls ++ rest } (encodeWord i)) i polls rest rfl
    (decodeWord_encodeWord hi) rfl
  exact ⟨r, u, hu, exec_idle hu, (run_succ _ _ _ (step_write_cmd s _ _ hidle h)).trans hrun⟩

/-- `ENC v` runs ENCODE on VAL_IN = v. -/
theorem run_encSequence {s : State} {v : Int} {polls : Nat} {rest : List Turn}
    (hidle : s.busy = false) (h : s.schedule = encSequence v polls ++ rest) :
    ∃ r u, exec .encode (State.awaiting
          { s with valInLo := loHalf (bits64 v), valInHi := hiHalf (bits64 v) } .encode r rest)
        = .next u ∧ u.busy = false
      ∧ Sys2Proof.core.run (encSequence v polls).length s
          = .next { u with schedule := rest, readData := hostRead u 3 } := by
  have hlo := step_write_valInLo s _ _ hidle h
  have hhi := step_write_valInHi { s with
    schedule := wr 5 (hiHalf (bits64 v)) :: wr 2 (encodeWord .encode) :: (waitTurns polls ++ rest)
    valInLo := loHalf (bits64 v) } _ _ hidle rfl
  obtain ⟨r, u, hu, hb, hrun⟩ := run_issue_wait (i := .encode) (s := { s with
    schedule := wr 2 (encodeWord .encode) :: (waitTurns polls ++ rest)
    valInLo := loHalf (bits64 v), valInHi := hiHalf (bits64 v) }) hidle rfl rfl
  exact ⟨r, u, hu, hb, (run_succ _ _ _ hlo).trans ((run_succ _ _ _ hhi).trans hrun)⟩

theorem decSequence_append (str : List Byte) (polls : Nat) (rest : List Turn) :
    decSequence str polls ++ rest = wr 8 (lengthWord str)
      :: ((decWordIndices str).map (fun k => wr (12 + k) (packWord (bufferOf 16 str) k))
        ++ wr 2 (encodeWord .decode) :: (waitTurns polls ++ rest)) := by
  simp [decSequence, decWordIndices]

theorem decSequence_length (str : List Byte) (polls : Nat) : (decSequence str polls).length
    = (decWordIndices str).length + ((waitTurns polls).length + 1) + 1 := by
  simp [decSequence, decWordIndices]

/-- `DEC "str"` runs DECODE on its length and on DT with the words of the string written. -/
theorem run_decSequence {s : State} {str : List Byte} {polls : Nat} {rest : List Turn}
    (hidle : s.busy = false) (h : s.schedule = decSequence str polls ++ rest) :
    ∃ r u, exec .decode (State.awaiting { s with
          decLen := lengthWord str
          decText := writeWords (bufferOf 16 str) (decWordIndices str) s.decText } .decode r rest)
        = .next u ∧ u.busy = false
      ∧ Sys2Proof.core.run (decSequence str polls).length s
          = .next { u with schedule := rest, readData := hostRead u 3 } := by
  have hlen := step_write_decLen s _ _ hidle (h.trans (decSequence_append str polls rest))
  have hwrites := run_writeWords (base := 12) (bufferOf 16 str)
    (wr 2 (encodeWord .decode) :: (waitTurns polls ++ rest)) (decWordIndices str)
    (put := fun turns v => { s with schedule := turns, decLen := lengthWord str, decText := v })
    (fun k hk d turns v => step_write_decText _ k (by
      have := List.mem_range.mp hk
      omega) d turns hidle rfl) s.decText
  obtain ⟨r, u, hu, hb, hrun⟩ := run_issue_wait (i := .decode) (s := { s with
    schedule := wr 2 (encodeWord .decode) :: (waitTurns polls ++ rest), decLen := lengthWord str
    decText := writeWords (bufferOf 16 str) (decWordIndices str) s.decText }) hidle rfl rfl
  refine ⟨r, u, hu, hb, ?_⟩
  rw [decSequence_length]
  exact (run_succ _ _ _ hlen).trans ((run_add _ _ _ _ hwrites).trans hrun)

theorem cfgSequence_append (str : List Byte) (polls : Nat) (rest : List Turn) :
    cfgSequence str polls ++ rest = wr 10 (lengthWord str)
      :: ((List.range 9).map (fun k => wr (20 + k) (packWord (bufferOf 36 str) k))
        ++ wr 2 (encodeWord .config) :: (waitTurns polls ++ rest)) := by
  simp only [cfgSequence, List.cons_append, List.append_assoc]

theorem cfgSequence_length (str : List Byte) (polls : Nat) : (cfgSequence str polls).length
    = (List.range 9).length + ((waitTurns polls).length + 1) + 1 := by
  simp only [cfgSequence, List.cons_append, List.length_cons, List.length_append, List.length_map]

/-- `CFG "str"` runs CONFIG on its length and on the string in CFGA. -/
theorem run_cfgSequence {s : State} {str : List Byte} {polls : Nat} {rest : List Turn}
    (hidle : s.busy = false) (h : s.schedule = cfgSequence str polls ++ rest) :
    ∃ r u, exec .config (State.awaiting
          { s with cfgLen := lengthWord str, cfgAlpha := bufferOf 36 str } .config r rest)
        = .next u ∧ u.busy = false
      ∧ Sys2Proof.core.run (cfgSequence str polls).length s
          = .next { u with schedule := rest, readData := hostRead u 3 } := by
  have hlen := step_write_cfgLen s _ _ hidle (h.trans (cfgSequence_append str polls rest))
  have hwrites := run_writeWords (base := 20) (bufferOf 36 str)
    (wr 2 (encodeWord .config) :: (waitTurns polls ++ rest)) (List.range 9)
    (put := fun turns v => { s with schedule := turns, cfgLen := lengthWord str, cfgAlpha := v })
    (fun k hk d turns v => step_write_cfgAlpha _ k (List.mem_range.mp hk) d turns hidle rfl)
    s.cfgAlpha
  rw [writeWords_all] at hwrites
  obtain ⟨r, u, hu, hb, hrun⟩ := run_issue_wait (i := .config) (s := { s with
    schedule := wr 2 (encodeWord .config) :: (waitTurns polls ++ rest), cfgLen := lengthWord str
    cfgAlpha := bufferOf 36 str }) hidle rfl rfl
  refine ⟨r, u, hu, hb, ?_⟩
  rw [cfgSequence_length]
  exact (run_succ _ _ _ hlen).trans ((run_add _ _ _ _ hwrites).trans hrun)

/-! ### What the commands do -/

/-- ENCODE of a value in range, with a valid codec (42_encode.md R146, R147). -/
theorem execEncode_of_range {s : State} (hc : s.cfgValid = true) (hlo : -2 ^ 63 < s.valIn.toInt) :
    execEncode s = .next (finishEncode s (encodeText s.actAlpha s.valIn.toInt) .ok) := by
  rcases execEncode_cases s with ⟨hn, -⟩ | ⟨-, hmin, -⟩ | ⟨-, -, -, h⟩
  · simp [hc] at hn
  · omega
  · exact h

/-- DECODE without a valid codec (43_decode.md R163). -/
theorem execDecode_of_not_configured {s : State} (hc : s.cfgValid = false) :
    execDecode s = .next (finishDecode s 0 .notConfigured) := if_pos hc

/-- DECODE of more than 13 symbols (43_decode.md R165). -/
theorem execDecode_of_long {s : State} (hc : s.cfgValid = true) (hn : 13 < decodeCount s) :
    execDecode s = .next (finishDecode s 0 .numberTooLarge) := by
  rw [execDecode, if_neg (by simp [hc]), if_pos hn]

/-- DECODE of at most 13 symbols, one of them absent (43_decode.md R166). -/
theorem execDecode_of_absent {s : State} (hc : s.cfgValid = true) (hn : decodeCount s ≤ 13)
    (hd : ∃ i, i < decodeCount s ∧ inputDigit s i = none) :
    execDecode s = .next (finishDecode s 0 .invalidCharacter) := by
  simp [execDecode, hc, Nat.not_lt.mpr hn, decodeRun_invalid s hn hd]

/-- DECODE of at most 13 valid digits: their value, where it fits (43_decode.md R167 to R169). -/
theorem execDecode_of_digits {s : State} (d : Nat → Fin 36) (hc : s.cfgValid = true)
    (hn : decodeCount s ≤ 13) (hd : ∀ i, i < decodeCount s → inputDigit s i = some (d i)) :
    execDecode s = .next (
      if 2 ^ 63 - 1 < digitSum (fun i => (d i).val) (decodeCount s) then
        finishDecode s 0 .numberTooLarge
      else finishDecode s (signedResult s (digitSum (fun i => (d i).val) (decodeCount s))) .ok) := by
  obtain ⟨hbad, hneg, hacc⟩ := decodeRun_valid s d hn hd
  simp only [execDecode, hc, Nat.not_lt.mpr hn, hbad, hneg, hacc, signedResult, if_false,
    Bool.false_eq_true, Bool.true_eq_false]
  split <;> rfl

/-- The input bytes of two DECODEs stand for the same string: the same length, and up to ASCII case
(43_decode.md R162) the same bytes below it, of which at most 14 are looked at (R171). -/
structure SameInput (s t : State) : Prop where
  length : t.decLen = s.decLen
  byte : ∀ j, j < 14 → j < s.decLen.toNat → lc (byteAt t.decText j) = lc (byteAt s.decText j)

theorem SameInput.decodeSign_eq {s t : State} (h : SameInput s t) : decodeSign t = decodeSign s := by
  by_cases hl : 1 ≤ s.decLen.toNat
  · rw [decodeSign, decodeSign, h.length, h.byte 0 (by decide) hl]
  · simp [decodeSign, h.length, hl]

theorem SameInput.decodeOffset_eq {s t : State} (h : SameInput s t) :
    decodeOffset t = decodeOffset s := by
  rw [decodeOffset, decodeOffset, h.decodeSign_eq]

theorem SameInput.decodeCount_eq {s t : State} (h : SameInput s t) :
    decodeCount t = decodeCount s := by
  rw [decodeCount, decodeCount, h.length, h.decodeOffset_eq]

theorem SameInput.inputDigit_eq {s t : State} (h : SameInput s t) (ha : t.actAlpha = s.actAlpha)
    (hn : decodeCount s ≤ 13) {i : Nat} (hi : i < decodeCount s) :
    inputDigit t i = inputDigit s i := by
  have hoff : decodeOffset s ≤ 1 := by rw [decodeOffset]; split <;> decide
  have hlen : decodeOffset s + i < s.decLen.toNat := by rw [decodeCount] at hi; omega
  rw [inputDigit, inputDigit, ha, h.decodeOffset_eq, h.byte _ (by omega) hlen]

/-- Two DECODEs of the same input under the same codec end with the same value and code. -/
theorem execDecode_congr {s t : State} (hin : SameInput s t) (hc : t.cfgValid = s.cfgValid)
    (ha : t.actAlpha = s.actAlpha) :
    ∃ x code, execDecode s = .next (finishDecode s x code)
      ∧ execDecode t = .next (finishDecode t x code) := by
  have hcount := hin.decodeCount_eq
  cases hv : s.cfgValid with
  | false => exact ⟨_, _, execDecode_of_not_configured hv, execDecode_of_not_configured (hc.trans hv)⟩
  | true =>
    have hv' := hc.trans hv
    by_cases hn : 13 < decodeCount s
    · exact ⟨_, _, execDecode_of_long hv hn, execDecode_of_long hv' (hcount ▸ hn)⟩
    · have hn13 : decodeCount s ≤ 13 := Nat.not_lt.mp hn
      have hn13' : decodeCount t ≤ 13 := hcount.trans_le hn13
      have hdigit : ∀ i, i < decodeCount t → inputDigit t i = inputDigit s i :=
        fun i hi => hin.inputDigit_eq ha hn13 (hcount ▸ hi)
      rcases inputDigit_cases s (decodeCount s) with ⟨d, hd⟩ | ⟨i, hi, hnone⟩
      · have hs := execDecode_of_digits d hv hn13 hd
        have ht := execDecode_of_digits d hv' hn13' fun i hi =>
          (hdigit i hi).trans (hd i (hcount ▸ hi))
        rw [hcount, signedResult, hin.decodeSign_eq, ← signedResult] at ht
        split at hs
        · exact ⟨_, _, hs, ht.trans (by rw [if_pos ‹_›])⟩
        · exact ⟨_, _, hs, ht.trans (by rw [if_neg ‹_›])⟩
      · have hi' : i < decodeCount t := hcount.symm ▸ hi
        exact ⟨_, _, execDecode_of_absent hv hn13 ⟨i, hi, hnone⟩,
          execDecode_of_absent hv' hn13' ⟨i, hi', (hdigit i hi').trans hnone⟩⟩

/-- CONFIG accepts a staged string exactly where it has 36 distinct bytes (41_construction.md R120). -/
theorem alphabetAccepted_iff {s : State} {str : List Byte} (hlen : s.cfgLen = lengthWord str)
    (hbuf : s.cfgAlpha = bufferOf 36 str) (hle : str.length ≤ 36) :
    alphabetAccepted s ↔ str.length = 36 ∧ str.Nodup := by
  have h36 : s.cfgLen = 36 ↔ str.length = 36 := by
    rw [hlen, ← BitVec.toNat_inj, lengthWord_toNat, Nat.min_eq_left (by omega)]
    rfl
  rw [alphabetAccepted, h36]
  refine and_congr_right fun h => ?_
  rw [hbuf, toList_bufferOf h]

/-! ### The statements -/

/-- Settles O58: VAL_IN is put together from the two halves of v, and its text is read back. -/
theorem encSequenceEncodesItsValue : Obligations.EncSequenceEncodesItsValue := by
  intro s v polls rest hidle hc hlo hhi hs
  obtain ⟨r, u, hu, hb, hrun⟩ := run_encSequence hidle hs
  refine ⟨_, hrun, rfl, hb, ?_⟩
  set w := State.awaiting { s with valInLo := loHalf (bits64 v), valInHi := hiHalf (bits64 v) }
    .encode r rest
  have hval : w.valIn.toInt = v := by
    rw [show w.valIn = bits64 v from pairValue_halves (bits64 v)]
    exact s64_bits64 v (Int.le_of_lt hlo) hhi
  have hexec := execEncode_of_range (s := w) hc (hval.symm ▸ hlo)
  rw [hval] at hexec
  cases hexec.symm.trans hu
  exact ⟨rfl, outputString_finishEncode w .ok (encodeText_length_le s.actAlpha v hlo hhi)⟩

/-- Settles O59: the written words and the old ones behind them are the string's input to DECODE. -/
theorem decSequenceDecodesItsString : Obligations.DecSequenceDecodesItsString := by
  intro s u str polls rest hidle hs hu
  obtain ⟨r, t, ht, hb, hrun⟩ := run_decSequence hidle hs
  refine ⟨_, hrun, rfl, hb, ?_⟩
  obtain ⟨x, code, hx, hx'⟩ := execDecode_congr
    (s := { s with decLen := lengthWord str, decText := bufferOf 16 str })
    (t := State.awaiting { s with
      decLen := lengthWord str
      decText := writeWords (bufferOf 16 str) (decWordIndices str) s.decText } .decode r rest)
    ⟨rfl, fun j hj hl => congrArg lc (byteAt_decWords str s.decText (by omega) hl)⟩ rfl rfl
  cases hx.symm.trans hu
  cases hx'.symm.trans ht
  exact ⟨rfl, rfl⟩

/-- Settles O60, by the ways CONFIG completes. -/
theorem cfgSequenceConstructsTheCodec : Obligations.CfgSequenceConstructsTheCodec := by
  intro s str polls rest hidle hle hs
  obtain ⟨r, u, hu, hb, hrun⟩ := run_cfgSequence hidle hs
  refine ⟨_, hrun, rfl, hb, ?_⟩
  set w := State.awaiting { s with cfgLen := lengthWord str, cfgAlpha := bufferOf 36 str }
    .config r rest
  have hacc : alphabetAccepted w ↔ str.length = 36 ∧ str.Nodup := alphabetAccepted_iff rfl rfl hle
  rw [← hacc]
  rcases execConfig_cases w with ⟨hlen, h⟩ | ⟨-, hdup, h⟩ | ⟨ha, h⟩ <;> cases h.symm.trans hu
  · exact ⟨fun ha => absurd ha.1 hlen, fun _ => ⟨nofun, rfl, rfl⟩⟩
  · exact ⟨fun ha => absurd ha.2 hdup, fun _ => ⟨nofun, rfl, rfl⟩⟩
  · exact ⟨fun _ => ⟨rfl, rfl, toList_bufferOf (hacc.mp ha).1⟩, fun hn => absurd ha hn⟩

end Sys2Proof.Machine

/-! PROOFS of the statements about command control (40_command_control.md): issue and drop, the core's
turn, the completion of every command, NOP and the illegal commands. First what a command, a host
write and an uneventful turn do, then the statements. -/

namespace Sys2Proof.Machine

/-! ### What a command does -/

/-- NOP is a completion and nothing else (40_command_control.md R108). -/
theorem exec_nop (s : State) : exec .nop s = .next (s.complete .ok) := rfl

/-- A word above 3 is none of the four legal words, so its meaning is a completion with code 7
(30_encoding.md R82, 40_command_control.md R109). -/
theorem exec_decodeWord_of_gt_three {w : Word} (h : 3 < w.toNat) (s : State) :
    exec (decodeWord w) s = .next (s.complete .illegalCommand) := by
  obtain ⟨-, hw⟩ := everyWordIsTheWordOfItsCommand w
  cases hi : decodeWord w with
  | nop | config | encode | decode =>
    rw [hi] at hw
    exact absurd h (by rw [← hw]; decide)
  | illegalOpLow | illegalOpHigh | illegalRsvd => rfl

/-! ### What a host write does -/

/-- While busy a write to a busy-protected register is dropped (40_command_control.md R106). -/
theorem hostWrite_of_protected_busy {s : State} {w : HostIndex} (d : Word)
    (hp : busyProtected w = true) (hb : s.busy = true) : hostWrite s w d = s.dropWrite := by
  obtain ⟨h1, h3⟩ := busyProtected_excludes w hp
  rcases hostWrite_cases s w d with ⟨hw, -⟩ | ⟨hw, -⟩ | ⟨hw, -⟩ | ⟨-, -, e⟩ | ⟨-, hidle, -⟩ |
    ⟨-, -, hidle, -⟩
  · simp [(writeIgnored_excludes w hw).1] at hp
  · exact absurd hw h1
  · exact absurd hw h3
  · exact e
  · simp [hb] at hidle
  · simp [hb] at hidle

/-! ### What leaves the results as they are -/

theorem sameResults_popTurn (s : State) : sameResults s s.popTurn := by simp [sameResults]

theorem sameResults_latchRead (s : State) (w : HostIndex) :
    sameResults s (s.latchRead w) := by simp [sameResults]

/-! ### The statements -/

/-- Settles O20, by the completion that ends every command. -/
theorem everyCommandCompletesAndKeepsItsOperands :
    Obligations.EveryCommandCompletesAndKeepsItsOperands := by
  intro i s
  obtain ⟨u, code, hu, hpend, hie, hovr, hread, hsched, hops⟩ := exec_completes i s
  refine ⟨u.complete code, hu, rfl, rfl, ?_, hops, hie, hovr, hsched, hread⟩
  rw [State.complete_lastOp, hpend, opField_toNat]

/-- Settles O23: the step is the meaning of a word above 3. -/
theorem pendingIllegalWordCompletesWithCode7 :
    Obligations.PendingIllegalWordCompletesWithCode7 := by
  intro s hc hw
  rw [← opField_eq_ofNat]
  exact (step_of_completesNext s hc).trans (exec_decodeWord_of_gt_three hw s.popTurn)

/-- Settles O51, by the kinds of step: a read, a write and an idle turn keep the results, and the two
others are excluded. -/
theorem resultsChangeOnlyAtCompletion : Obligations.ResultsChangeOnlyAtCompletion := by
  intro s t hs hnoReset hnoCompletion
  rcases step_cases hs with ⟨w, -, rfl⟩ | ⟨w, d, -, rfl⟩ | ⟨hc, -⟩ | ⟨-, -, rfl⟩ | ⟨hr, -⟩
  · exact sameResults_latchRead s.popTurn w
  · exact hostWrite_sameResults s.popTurn w d
  · exact absurd hc hnoCompletion
  · exact sameResults_popTurn s
  · exact absurd hr hnoReset

/-- Settles O5: the core's turn, scheduled or by default, on a busy block. -/
theorem stepRunsTheDecodedCommand : Obligations.StepRunsTheDecodedCommand := by
  intro s rest hb
  obtain ⟨hwf, -⟩ := decodeWord_fields s.pend
  exact ⟨hwf, step_core_busy s rest hb, fun hs => (step_nil s hs).trans (takeTurn_core_busy s hb)⟩

/-- Settles O6: the core's turn, scheduled or by default, on an idle block. -/
theorem idleCoreTurnLeavesTheBlockUnchanged : Obligations.IdleCoreTurnLeavesTheBlockUnchanged := by
  intro s rest hidle
  exact ⟨fun hs => (step_cons s .core rest hs).trans (takeTurn_core_idle _ hidle),
    fun hs => (step_nil s hs).trans (takeTurn_core_idle s hidle)⟩

/-- Settles O12: the write's turn is `issue`, which clears DONE and with it IRQ. -/
theorem cmdWriteWhileIdleIssues : Obligations.CmdWriteWhileIdleIssues := by
  intro s d rest hs hidle
  have hstep : step s = .next (State.issue { s with schedule := rest } d) :=
    step_write_cmd s d rest hidle hs
  refine ⟨hstep, fun t ht => ?_⟩
  cases hstep.symm.trans ht
  simp [State.irq]

/-- Settles O13: the write's turn is `dropWrite`. -/
theorem protectedWriteWhileBusyIsDropped : Obligations.ProtectedWriteWhileBusyIsDropped := by
  intro s w d rest hs hp hb
  have hdrop := hostWrite_of_protected_busy (s := { s with schedule := rest }) d hp hb
  exact (step_hostWrite s w d rest hs).trans (congrArg _ hdrop)

/-- Settles O21: NOP's completion takes LAST_OP from PEND, which is 0. -/
theorem nopCompletesWithOk : Obligations.NopCompletesWithOk := by
  intro s hpend
  have hop : opField s.pend = 0 := by rw [hpend]; rfl
  rw [exec_nop, State.complete, hop]

/-- Settles O22: each of the three meanings is the same completion. -/
theorem illegalWordsCompleteWithIllegalCommand :
    Obligations.IllegalWordsCompleteWithIllegalCommand :=
  ⟨fun _ _ => rfl, fun _ _ => rfl, fun _ _ _ => rfl, rfl⟩

end Sys2Proof.Machine

/-! PROOFS of the statements about CONFIG (41_construction.md): the two failures and the installation.
First CONFIG's outcome for each of its conditions and what the conditions say of the registers, then
the statements. -/

namespace Sys2Proof.Machine

/-! ### The three outcomes of CONFIG -/

/-- The command CONFIG runs `execConfig`. -/
theorem exec_config (s : State) : exec .config s = execConfig s := rfl

/-- The length check comes first, so the bytes staged do not matter (41_construction.md R125). -/
theorem execConfig_of_length_ne {s : State} (hlen : s.cfgLen ≠ 36) :
    execConfig s = .next (s.invalidateCodec.complete .alphabetLength) := by
  rcases execConfig_cases s with ⟨-, e⟩ | ⟨h36, -, -⟩ | ⟨⟨h36, -⟩, -⟩
  · exact e
  · exact absurd h36 hlen
  · exact absurd h36 hlen

/-- CONFIG of 36 bytes that repeat one (41_construction.md R122). -/
theorem execConfig_of_not_nodup {s : State} (hlen : s.cfgLen = 36)
    (hdup : ¬ s.cfgAlpha.toList.Nodup) :
    execConfig s = .next (s.invalidateCodec.complete .alphabetDuplicate) := by
  rcases execConfig_cases s with ⟨hne, -⟩ | ⟨-, -, e⟩ | ⟨⟨-, hnodup⟩, -⟩
  · exact absurd hlen hne
  · exact e
  · exact absurd hnodup hdup

/-! ### The conditions, on the registers -/

/-- CFG_LEN holds 36 exactly where it is 36 as a number. -/
theorem cfgLen_eq_iff (s : State) : s.cfgLen = 36 ↔ s.cfgLen.toNat = 36 := BitVec.toNat_inj.symm

/-- A buffer repeats a byte exactly where two of its places hold the same byte
(41_construction.md R122). -/
theorem not_nodup_toList_iff {n : Nat} (v : Vector Byte n) :
    ¬ v.toList.Nodup ↔ ∃ i j : Fin n, i ≠ j ∧ v[i] = v[j] := by
  simp only [nodup_toList_iff, not_forall, not_ne_iff, exists_prop]

/-! ### The statements -/

/-- Settles O26: two places with the same byte are a repetition in CFGA, and the completion leaves
ALPHA. -/
theorem configRejectsARepeatedSymbol : Obligations.ConfigRejectsARepeatedSymbol := by
  intro s hlen hdup
  rw [exec_config]
  exact execConfig_of_not_nodup ((cfgLen_eq_iff s).mpr hlen) ((not_nodup_toList_iff _).mpr hdup)

/-- Settles O27: pairwise distinct places, whatever their bytes, are all that CONFIG asks of CFGA. -/
theorem configInstallsDistinctSymbols : Obligations.ConfigInstallsDistinctSymbols := by
  intro s hlen hdistinct
  rw [exec_config]
  exact execConfig_of_accepted
    ⟨(cfgLen_eq_iff s).mpr hlen, (nodup_toList_iff s.cfgAlpha).mpr hdistinct⟩

/-- Settles O25, by the length check alone. -/
theorem configRejectsAWrongLength : Obligations.ConfigRejectsAWrongLength := by
  intro s hlen
  rw [exec_config]
  exact execConfig_of_length_ne (mt (cfgLen_eq_iff s).mp hlen)

end Sys2Proof.Machine

/-! PROOFS of the statements about ENCODE (42_encode.md). First the text as a function of the value:
its sign, its length, its first digit, and that its digits read back as the magnitude; then what
ENCODE completes with in its error cases and in range; then the statements. -/

namespace Sys2Proof.Machine

/-! ### The digits of a magnitude -/

/-- A magnitude from 36^12 up takes all 13 digits of the datapath (42_encode.md R149). -/
theorem digitSymbols_length_eq_thirteen (alpha : Vector Byte 36) {m : Nat} (hlo : 36 ^ 12 ≤ m)
    (hhi : m < 2 ^ 63) : (digitSymbols alpha m).length = 13 := by
  have hpow : (2 : Nat) ^ 63 ≤ 36 ^ 13 := by norm_num
  have hle := digitSymbols_length_le alpha m 13 (by omega) (by omega)
  have hlt := lt_digitSymbols_length alpha m 12 hlo
  omega

/-- The most significant digit of a nonzero magnitude is not the zero digit (42_encode.md R151). -/
theorem digitSymbols_head (alpha : Vector Byte 36) {m : Nat} (hm : m ≠ 0) :
    ∃ d : Fin 36, 1 ≤ d.val ∧ (digitSymbols alpha m)[0]? = some alpha[d] := by
  have hne : Nat.digits 36 m ≠ [] := Nat.digits_ne_nil_iff_ne_zero.mpr hm
  have hpos : (Nat.digits 36 m).getLast hne ≠ 0 := Nat.getLast_digit_ne_zero 36 hm
  have hlt : (Nat.digits 36 m).getLast hne < 36 :=
    Nat.digits_lt_base (by omega) (List.getLast_mem hne)
  refine ⟨⟨_, hlt⟩, Nat.pos_of_ne_zero hpos, ?_⟩
  rw [digitSymbols, if_neg hm, List.getElem?_map, ← List.head?_eq_getElem?, List.head?_reverse,
    List.getLast?_eq_some_getLast hne, Option.map_some, byteAt_of_lt _ _ hlt]
  rfl

/-- The digit value of a symbol, by the reverse map (10_state.md R43). -/
def symbolValue (alpha : Vector Byte 36) (b : Byte) : Nat := (rmap alpha b).elim 0 Fin.val

/-- Distinct symbols have the values of their places (10_state.md R43). -/
theorem symbolValue_byteAt {alpha : Vector Byte 36} (hnodup : alpha.toList.Nodup) {d : Nat}
    (hd : d < 36) : symbolValue alpha (byteAt alpha d) = d := by
  obtain ⟨-, -, hinv⟩ := reverseMapInvertsTheAlphabet alpha (byteAt alpha d)
  rw [symbolValue, hinv hnodup ⟨d, hd⟩ (byteAt_of_lt alpha d hd).symm]
  rfl

/-- Positional notation reads the digits back as the magnitude. -/
theorem ofDigits_digitSymbols {alpha : Vector Byte 36} (hnodup : alpha.toList.Nodup) (m : Nat) :
    Nat.ofDigits 36 ((digitSymbols alpha m).reverse.map (symbolValue alpha)) = m := by
  by_cases hm : m = 0
  · simp [digitSymbols, hm, symbolValue_byteAt hnodup]
  · have hval : ∀ d ∈ Nat.digits 36 m, (symbolValue alpha ∘ byteAt alpha) d = id d := fun d hd =>
      symbolValue_byteAt hnodup (Nat.digits_lt_base (by omega) hd)
    rw [digitSymbols, if_neg hm, ← List.map_reverse, List.reverse_reverse, List.map_map,
      List.map_congr_left hval, List.map_id, Nat.ofDigits_digits]

/-- Different magnitudes have different digits. -/
theorem digitSymbols_injective {alpha : Vector Byte 36} (hnodup : alpha.toList.Nodup) :
    Function.Injective (digitSymbols alpha) := by
  intro m m' h
  rw [← ofDigits_digitSymbols hnodup m, h, ofDigits_digitSymbols hnodup m']

/-! ### The text of a value -/

/-- A negative value's text is '-' and its magnitude's digits (42_encode.md R146). -/
theorem encodeText_of_neg (alpha : Vector Byte 36) {v : Int} (hv : v < 0) :
    encodeText alpha v = 0x2D :: digitSymbols alpha v.natAbs := by
  rw [encodeText, if_pos hv, List.singleton_append]

/-- Any other value's text is its digits alone (42_encode.md R146). -/
theorem encodeText_of_nonneg (alpha : Vector Byte 36) {v : Int} (hv : 0 ≤ v) :
    encodeText alpha v = digitSymbols alpha v.natAbs := by
  rw [encodeText, if_neg (by omega), List.nil_append]

/-- Where '-' is no symbol of a nonzero digit, the text of a negative value is no other value's:
a nonzero one begins with another byte, and the single digit of 0 is too short
(42_encode.md R151). -/
theorem encodeText_ne_of_neg_of_nonneg {alpha : Vector Byte 36}
    (hminus : ∀ d : Fin 36, 1 ≤ d.val → alpha[d] ≠ 0x2D) {v w : Int} (hv : v < 0) (hw : 0 ≤ w) :
    encodeText alpha v ≠ encodeText alpha w := by
  rw [encodeText_of_neg alpha hv, encodeText_of_nonneg alpha hw]
  intro h
  by_cases hzero : w.natAbs = 0
  · have hlen := congrArg List.length h
    have hpos := digitSymbols_length_pos alpha v.natAbs
    rw [hzero, digitSymbols_of_lt alpha 0 (by omega), List.length_cons,
      List.length_singleton] at hlen
    omega
  · obtain ⟨d, hd, hhead⟩ := digitSymbols_head alpha hzero
    rw [← h, List.getElem?_cons_zero, Option.some_inj] at hhead
    exact hminus d hd hhead.symm

/-- Different values have different texts, where '-' is no symbol of a nonzero digit
(42_encode.md R151). -/
theorem encodeText_injective {alpha : Vector Byte 36} (hnodup : alpha.toList.Nodup)
    (hminus : ∀ d : Fin 36, 1 ≤ d.val → alpha[d] ≠ 0x2D) :
    Function.Injective (encodeText alpha) := by
  intro v w h
  rcases lt_or_ge v 0 with hv | hv <;> rcases lt_or_ge w 0 with hw | hw
  · rw [encodeText_of_neg alpha hv, encodeText_of_neg alpha hw] at h
    have habs := digitSymbols_injective hnodup (List.tail_eq_of_cons_eq h)
    omega
  · exact absurd h (encodeText_ne_of_neg_of_nonneg hminus hv hw)
  · exact absurd h.symm (encodeText_ne_of_neg_of_nonneg hminus hw hv)
  · rw [encodeText_of_nonneg alpha hv, encodeText_of_nonneg alpha hw] at h
    have habs := digitSymbols_injective hnodup h
    omega

/-! ### What ENCODE completes with -/

/-- The command ENCODE runs `execEncode`. -/
theorem exec_encode (s : State) : exec .encode s = execEncode s := rfl

/-- Every value but the one that ENCODE refuses is in the symmetric range (42_encode.md R143). -/
theorem toInt_range_of_ne_min {x : BitVec 64} (h : x.toInt ≠ -2 ^ 63) :
    -2 ^ 63 < x.toInt ∧ x.toInt < 2 ^ 63 :=
  ⟨lt_of_le_of_ne (BitVec.le_toInt x) h.symm, BitVec.toInt_lt⟩

/-- With a valid codec ENCODE completes with the text of its value (42_encode.md R146). -/
theorem exec_encode_of_ne_min {s : State} (hc : s.cfgValid = true) (hv : s.valIn.toInt ≠ -2 ^ 63) :
    exec .encode s = .next (finishEncode s (encodeText s.actAlpha s.valIn.toInt) .ok) :=
  execEncode_of_range hc (toInt_range_of_ne_min hv).1

/-- The text of VAL_IN fits ENC_LEN's range (42_encode.md R149). -/
theorem encodeText_valIn_length_le {s : State} (hv : s.valIn.toInt ≠ -2 ^ 63) :
    (encodeText s.actAlpha s.valIn.toInt).length ≤ 14 :=
  have ⟨hlo, hhi⟩ := toInt_range_of_ne_min hv
  encodeText_length_le s.actAlpha _ hlo hhi

/-- The host reads the text of the value (42_encode.md R146, R147). -/
theorem outputString_of_exec_encode {s t : State} (hc : s.cfgValid = true)
    (hv : s.valIn.toInt ≠ -2 ^ 63) (h : exec .encode s = .next t) :
    outputString t = encodeText s.actAlpha s.valIn.toInt := by
  cases (exec_encode_of_ne_min hc hv).symm.trans h
  exact outputString_finishEncode s .ok (encodeText_valIn_length_le hv)

/-- ENCODE's error results: no string (42_encode.md R148). -/
theorem finishEncode_nil_eq (s : State) (code : StatusCode) :
    ∃ p n, finishEncode s [] code = { s with
      encLen := 0, encText := Vector.replicate 16 0, err := code
      lastOp := s.pend.extractLsb' 0 4, busy := false, done := true
      encPath := p, draws := n } := by
  rw [← bufferOf_nil]
  exact finishEncode_eq s [] code

/-! ### The statements -/

/-- Settles O31: the datapath's string is the text of the value, put into the result registers. -/
theorem encodeWritesTheRadix36Text : Obligations.EncodeWritesTheRadix36Text := by
  intro s hc hv
  obtain ⟨p, n, hfinish⟩ := finishEncode_eq s (encodeText s.actAlpha s.valIn.toInt) .ok
  refine ⟨bufferOf 16 (encodeText s.actAlpha s.valIn.toInt), p, n, ?_, fun j => ?_,
    encodeText_length_pos _ _, encodeText_valIn_length_le hv⟩
  · rw [exec_encode_of_ne_min hc hv, hfinish]
    rfl
  · rw [← byteAt_fin, byteAt_bufferOf 16 _ j.val j.isLt]

/-- Settles O32: the two values have the same magnitude, and so the same digits. -/
theorem encodeOfANegativePrependsTheSign : Obligations.EncodeOfANegativePrependsTheSign := by
  intro s s' n hc hc' halpha hn hmax hv hv'
  have hexec := exec_encode_of_ne_min hc (by omega)
  have hexec' := exec_encode_of_ne_min hc' (by omega)
  refine ⟨_, _, hexec, hexec', ?_⟩
  rw [outputString_of_exec_encode hc (by omega) hexec,
    outputString_of_exec_encode hc' (by omega) hexec', halpha, hv, hv',
    encodeText_of_neg _ (by omega), encodeText_of_nonneg _ (by omega), Int.natAbs_neg]

/-- Settles O33: a digit for the one-digit magnitudes, 13 from 36^12 up, and one byte more for the
sign. -/
theorem encodeLengthFollowsTheValue : Obligations.EncodeLengthFollowsTheValue := by
  intro s hc hv
  obtain ⟨hmin, hmax⟩ := toInt_range_of_ne_min hv
  have hlen := encodeText_valIn_length_le hv
  refine ⟨_, exec_encode_of_ne_min hc hv, fun hlo hhi => ?_, fun hlo hhi => ?_, fun hlo => ?_,
    fun hhi => ?_, ?_, ?_, ?_⟩
  · rw [finishEncode_encLen, encodeText_of_nonneg _ hlo, digitSymbols_of_lt _ _ (by omega)]
    rfl
  · rw [finishEncode_encLen, encodeText_of_neg _ (by omega), digitSymbols_of_lt _ _ (by omega)]
    rfl
  · rw [finishEncode_encLen, encodeText_of_nonneg _ (by omega),
      digitSymbols_length_eq_thirteen _ (by omega) (by omega)]
    rfl
  · rw [finishEncode_encLen, encodeText_of_neg _ (by omega), List.length_cons,
      digitSymbols_length_eq_thirteen _ (by omega) (by omega)]
    rfl
  · rw [finishEncode_encLen, BitVec.toNat_ofNat]
    exact (Nat.mod_le _ _).trans hlen
  · exact byteAt_bufferOf_of_ge 16 _ 14 hlen
  · exact byteAt_bufferOf_of_ge 16 _ 15 (by omega)

/-- Settles O34: the first digit stands after the sign of a negative value, else at the start. -/
theorem encodeNeverLeadsWithTheZeroDigit : Obligations.EncodeNeverLeadsWithTheZeroDigit := by
  intro s hc hv hne
  have hexec := exec_encode_of_ne_min hc hv
  obtain ⟨d, hd, hhead⟩ := digitSymbols_head s.actAlpha (Int.natAbs_ne_zero.mpr hne)
  refine ⟨_, d, hexec, hd, ?_⟩
  rw [outputString_of_exec_encode hc hv hexec, ← hhead]
  by_cases hneg : s.valIn.toInt < 0
  · rw [if_pos hneg, encodeText_of_neg _ hneg, List.getElem?_cons_succ]
  · rw [if_neg hneg, encodeText_of_nonneg _ (Int.not_lt.mp hneg)]

/-- Settles O35: both strings are texts under one alphabet of distinct symbols. -/
theorem encodeIsInjectiveWithoutMinusDigits : Obligations.EncodeIsInjectiveWithoutMinusDigits := by
  intro s s' t t' hc hc' hinv halpha hminus hv hv' ht ht' hout
  rw [outputString_of_exec_encode hc hv ht, outputString_of_exec_encode hc' hv' ht', halpha] at hout
  exact BitVec.toInt_inj.mp (encodeText_injective (hinv.distinct hc) hminus hout)

/-- Settles O29: the codec check comes before the value is looked at. -/
theorem encodeWithoutCodecReportsNotConfigured :
    Obligations.EncodeWithoutCodecReportsNotConfigured := by
  intro s hc
  obtain ⟨p, n, hfinish⟩ := finishEncode_nil_eq s .notConfigured
  exact ⟨p, n, by rw [exec_encode, execEncode_eq, if_pos hc, hfinish]⟩

/-- Settles O30: the two halves make up −2^63. -/
theorem encodeOfTheMinimumReportsRange : Obligations.EncodeOfTheMinimumReportsRange := by
  intro s hc hhi hlo
  have hmin : s.valIn.toInt = -2 ^ 63 := by
    rw [State.valIn, hhi, hlo]
    decide
  obtain ⟨p, n, hfinish⟩ := finishEncode_nil_eq s .encodeRange
  exact ⟨p, n, by rw [exec_encode, execEncode_eq, if_neg (by simp [hc]), if_pos hmin, hfinish]⟩

end Sys2Proof.Machine

/-! PROOFS of the statements about DECODE (43_decode.md). First case normalisation and how the input
divides into sign and symbols; then what DECODE's completion leaves in the registers; then a text in
the input buffer, read back to the value that ENCODE wrote; then the statements. -/

namespace Sys2Proof.Machine

/-! ### Case normalisation -/

/-- An ASCII uppercase letter becomes the lowercase one, 0x20 higher (43_decode.md R162). -/
theorem lc_toNat_of_upper {b : Byte} (h : 0x41 ≤ b.toNat ∧ b.toNat ≤ 0x5A) :
    (lc b).toNat = b.toNat + 0x20 := by
  rw [lc, if_pos h, BitVec.toNat_add]
  exact Nat.mod_eq_of_lt (by rw [show (0x20 : Byte).toNat = 32 from rfl]; omega)

/-- Every other byte stays (43_decode.md R162). -/
theorem lc_of_not_upper {b : Byte} (h : ¬ (0x41 ≤ b.toNat ∧ b.toNat ≤ 0x5A)) : lc b = b :=
  if_neg h

/-! ### The sign and the symbols of the input -/

/-- Case normalisation makes no byte a '-', so the sign is byte 0 itself (43_decode.md R164). -/
theorem decodeSign_iff (s : State) :
    decodeSign s = true ↔ 1 ≤ s.decLen.toNat ∧ byteAt s.decText 0 = 0x2D := by
  rw [decodeSign, decide_eq_true_iff, minusSign, lc_eq_minus_iff]

theorem decodeOffset_of_sign {s : State} (h : decodeSign s = true) : decodeOffset s = 1 := if_pos h

theorem decodeOffset_of_no_sign {s : State} (h : decodeSign s = false) : decodeOffset s = 0 :=
  if_neg (by simp [h])

theorem decodeOffset_le_one (s : State) : decodeOffset s ≤ 1 := by
  rw [decodeOffset]
  split <;> decide

/-- The input is its sign and its symbols (43_decode.md R165). -/
theorem decodeOffset_add_decodeCount (s : State) :
    decodeOffset s + decodeCount s = s.decLen.toNat := by
  have hle : decodeOffset s ≤ s.decLen.toNat := by
    cases hsign : decodeSign s with
    | false => simp [decodeOffset_of_no_sign hsign]
    | true => rw [decodeOffset_of_sign hsign]; exact ((decodeSign_iff s).mp hsign).1
  rw [decodeCount]
  omega

/-! ### What DECODE completes with -/

/-- The command DECODE runs `execDecode`. -/
theorem exec_decode (s : State) : exec .decode s = execDecode s := rfl

/-- A DECODE that ends with the value 0, as every failing one does (43_decode.md R170), register by
register. -/
theorem exec_decode_of_zero {s : State} {code : StatusCode}
    (h : execDecode s = .next (finishDecode s 0 code)) :
    ∃ p n, exec .decode s = .next { s with
      valOutLo := 0, valOutHi := 0, err := code
      lastOp := s.pend.extractLsb' 0 4, busy := false, done := true, decPath := p, draws := n } := by
  obtain ⟨p, n, hfinish⟩ := finishDecode_eq s 0 code
  refine ⟨p, n, ?_⟩
  rw [exec_decode, h, hfinish, loHalf_zero, hiHalf_zero, opField]

/-- DECODE's value, read as a signed number: the magnitude with the input's sign
(43_decode.md R169). -/
theorem toInt_signedResult (s : State) {x : Nat} (hx : x ≤ 2 ^ 63 - 1) :
    (signedResult s x).toInt = if decodeSign s then -(x : Int) else x :=
  s64_bits64 _ (by split <;> omega) (by split <;> omega)

/-- The sign of a zero magnitude makes no difference (43_decode.md R172). -/
theorem signedResult_zero (s : State) : signedResult s 0 = 0 := by
  apply BitVec.eq_of_toInt_eq
  rw [toInt_signedResult s (Nat.zero_le _)]
  simp

/-- DECODE of valid digits whose value fits (43_decode.md R169). -/
theorem execDecode_of_value {s : State} (d : Nat → Fin 36) (hc : s.cfgValid = true)
    (hn : decodeCount s ≤ 13) (hd : ∀ i, i < decodeCount s → inputDigit s i = some (d i))
    (hx : digitSum (fun i => (d i).val) (decodeCount s) ≤ 2 ^ 63 - 1) :
    execDecode s = .next (finishDecode s
      (signedResult s (digitSum (fun i => (d i).val) (decodeCount s))) .ok) := by
  rw [execDecode_of_digits d hc hn hd, if_neg (Nat.not_lt.mpr hx)]

/-- DECODE of an input without symbols: the loop runs no iteration (43_decode.md R172). -/
theorem execDecode_of_no_symbols {s : State} (hc : s.cfgValid = true) (hn : decodeCount s = 0) :
    execDecode s = .next (finishDecode s 0 .ok) := by
  have h := execDecode_of_value (fun _ => 0) hc (by omega) (fun i hi => by omega) (by simp [hn])
  rwa [hn, digitSum_zero, signedResult_zero] at h

/-- Every DECODE completes, and never with the value −2^63 (43_decode.md R175). -/
theorem execDecode_value_ne_min (s : State) :
    ∃ x code, execDecode s = .next (finishDecode s x code) ∧ x.toInt ≠ -2 ^ 63 := by
  have hzero : (0 : BitVec 64).toInt ≠ -2 ^ 63 := by decide
  rcases execDecode_cases s with ⟨-, e⟩ | ⟨-, -, e⟩ | ⟨-, -, -, e⟩ |
    ⟨d, -, -, -, ⟨-, e⟩ | ⟨hx, e⟩⟩
  · exact ⟨_, _, e, hzero⟩
  · exact ⟨_, _, e, hzero⟩
  · exact ⟨_, _, e, hzero⟩
  · exact ⟨_, _, e, hzero⟩
  · exact ⟨_, _, e, s64_signedResult_ne_min s hx⟩

/-- The host reads the value as the pair of its halves (43_decode.md R169). -/
@[simp] theorem finishDecode_valOut (s : State) (x : BitVec 64) (code : StatusCode) :
    (finishDecode s x code).valOut = x := pairValue_halves x

/-- DECODE does the same from a buffer whose bytes, as far as DECODE looks at them, are the same up to
ASCII case (43_decode.md R162, R171). -/
theorem exec_decode_withText {s t : State} {text : Vector Byte 16}
    (hbyte : ∀ j : Fin 16, j.val < 14 → j.val < s.decLen.toNat → lc text[j] = lc s.decText[j])
    (h : exec .decode s = .next t) :
    exec .decode { s with decText := text } = .next { t with decText := text } := by
  have hin : SameInput s { s with decText := text } := ⟨rfl, fun j h14 hl => by
    have hj := hbyte ⟨j, by omega⟩ h14 hl
    rwa [← byteAt_fin, ← byteAt_fin] at hj⟩
  obtain ⟨x, code, hs, hs'⟩ := execDecode_congr hin rfl rfl
  cases hs.symm.trans h
  exact hs'

/-! ### A text in the input buffer -/

/-- The value of a list of digits, the first the most significant, is Mathlib's, which takes the last
digit first (43_decode.md R167). -/
theorem digitSum_eq_ofDigits {d : Nat → Nat} {l : List Nat}
    (h : ∀ i (hi : i < l.length), d i = l[i]) : digitSum d l.length = Nat.ofDigits 36 l.reverse := by
  induction l generalizing d with
  | nil => rfl
  | cons a l ih =>
    have hhead : d 0 = a := h 0 (Nat.succ_pos _)
    have htail := ih (d := fun i => d (i + 1)) fun i hi => h (i + 1) (Nat.succ_lt_succ hi)
    rw [List.length_cons, digitSum_succ, hhead, htail, List.reverse_cons, Nat.ofDigits_append,
      Nat.ofDigits_singleton, List.length_reverse]
    ring

/-- Where an alphabet with distinct symbols holds no uppercase letter, DECODE looks each digit's
symbol up to a digit (43_decode.md R176). -/
theorem rmap_lc_of_mem_digitSymbols {alpha : Vector Byte 36} (hnodup : alpha.toList.Nodup)
    (hupper : ∀ d : Fin 36, ¬ (0x41 ≤ alpha[d].toNat ∧ alpha[d].toNat ≤ 0x5A)) {m : Nat} {b : Byte}
    (hb : b ∈ digitSymbols alpha m) :
    ∃ d : Fin 36, rmap alpha (lc b) = some d ∧ symbolValue alpha b = d.val := by
  obtain ⟨d, rfl⟩ : ∃ d : Fin 36, alpha[d] = b := by
    rw [digitSymbols] at hb
    split at hb
    · exact ⟨0, (List.mem_singleton.mp hb).symm⟩
    · obtain ⟨d, hd, rfl⟩ := List.mem_map.mp hb
      have hlt : d < 36 := Nat.digits_lt_base (by omega) (List.mem_reverse.mp hd)
      exact ⟨⟨d, hlt⟩, (byteAt_of_lt alpha d hlt).symm⟩
  obtain ⟨-, -, hinv⟩ := reverseMapInvertsTheAlphabet alpha alpha[d]
  have hd := hinv hnodup d rfl
  exact ⟨d, by rw [lc_of_not_upper (hupper d), hd], by rw [symbolValue, hd]; rfl⟩

section

variable {u : State} {str : List Byte} (hlen : u.decLen.toNat = str.length)
  (htext : u.decText = bufferOf 16 str)

include hlen in
/-- The symbols are the string without its sign. -/
theorem decodeCount_of_text : decodeCount u = (str.drop (decodeOffset u)).length := by
  rw [decodeCount, hlen, List.length_drop]

include hlen htext in
/-- The input has a sign where the string begins with '-'. -/
theorem decodeSign_of_text : decodeSign u = true ↔ str[0]? = some 0x2D := by
  rw [decodeSign_iff, hlen, htext, byteAt_bufferOf 16 str 0 (by omega)]
  cases str with
  | nil => simp
  | cons b bs => simp

include htext in
/-- Symbol `i` of the input is byte `i` of the string without its sign. -/
theorem inputDigit_of_text (hfit : str.length ≤ 16) {i : Nat}
    (hi : i < (str.drop (decodeOffset u)).length) :
    inputDigit u i = rmap u.actAlpha (lc (str.drop (decodeOffset u))[i]) := by
  have hi' : decodeOffset u + i < str.length := by rw [List.length_drop] at hi; omega
  rw [inputDigit, htext, byteAt_bufferOf 16 str _ (by omega), List.getElem_drop,
    List.getElem?_eq_getElem hi', Option.getD_some]

section

variable {m : Nat} (hnodup : u.actAlpha.toList.Nodup)
  (hupper : ∀ d : Fin 36, ¬ (0x41 ≤ u.actAlpha[d].toNat ∧ u.actAlpha[d].toNat ≤ 0x5A))
  (hfit : str.length ≤ 16) (hstr : str.drop (decodeOffset u) = digitSymbols u.actAlpha m)

include htext hnodup hupper hfit hstr in
/-- The digits of a magnitude are all valid symbols (43_decode.md R176). -/
theorem exists_digits_of_text :
    ∃ d : Nat → Fin 36, ∀ i (hi : i < (str.drop (decodeOffset u)).length),
      inputDigit u i = some (d i)
        ∧ (d i).val = symbolValue u.actAlpha (str.drop (decodeOffset u))[i] := by
  have hdigit : ∀ i, ∃ d : Fin 36, ∀ hi : i < (str.drop (decodeOffset u)).length,
      inputDigit u i = some d ∧ d.val = symbolValue u.actAlpha (str.drop (decodeOffset u))[i] := by
    intro i
    by_cases hi : i < (str.drop (decodeOffset u)).length
    · obtain ⟨d, hlook, hval⟩ := rmap_lc_of_mem_digitSymbols (m := m) hnodup hupper
        (by rw [← hstr]; exact List.getElem_mem hi)
      exact ⟨d, fun _ => ⟨(inputDigit_of_text htext hfit hi).trans hlook, hval.symm⟩⟩
    · exact ⟨0, fun h => absurd h hi⟩
  choose d hd using hdigit
  exact ⟨d, hd⟩

include hlen htext hnodup hupper hfit hstr in
/-- DECODE of the digits of a magnitude, after a sign or without one, gives the magnitude with that
sign (43_decode.md R176). -/
theorem execDecode_of_digitSymbols (hc : u.cfgValid = true) (hm : m ≤ 2 ^ 63 - 1) :
    execDecode u = .next (finishDecode u (signedResult u m) .ok) := by
  obtain ⟨d, hd⟩ := exists_digits_of_text htext hnodup hupper hfit hstr
  have hcount := decodeCount_of_text hlen
  have hsum : digitSum (fun i => (d i).val) (decodeCount u) = m := by
    have hvalue := digitSum_eq_ofDigits (d := fun i => (d i).val)
      (l := (str.drop (decodeOffset u)).map (symbolValue u.actAlpha)) fun i hi => by
        rw [List.getElem_map]
        exact (hd i (by simpa using hi)).2
    rwa [List.length_map, ← hcount, ← List.map_reverse, hstr, ofDigits_digitSymbols hnodup] at hvalue
  have h13 : decodeCount u ≤ 13 := by
    have hpow : (2 : Nat) ^ 63 ≤ 36 ^ 13 := by norm_num
    rw [hcount, hstr]
    exact digitSymbols_length_le u.actAlpha m 13 (by omega) (by omega)
  have hexec := execDecode_of_value d hc h13 (fun i hi => (hd i (hcount ▸ hi)).1) (hsum.trans_le hm)
  rwa [hsum] at hexec

end

end

/-- DECODE of the text of a value gives the value, where '-' is no symbol of a nonzero digit
(43_decode.md R176). Where '-' is the zero digit, the text of 0 is the lone '-' of R172. -/
theorem execDecode_of_encodeText {u : State} {v : Int} (hc : u.cfgValid = true)
    (hnodup : u.actAlpha.toList.Nodup)
    (hupper : ∀ d : Fin 36, ¬ (0x41 ≤ u.actAlpha[d].toNat ∧ u.actAlpha[d].toNat ≤ 0x5A))
    (hminus : ∀ d : Fin 36, 1 ≤ d.val → u.actAlpha[d] ≠ 0x2D) (hlo : -2 ^ 63 < v) (hhi : v < 2 ^ 63)
    (hlen : u.decLen.toNat = (encodeText u.actAlpha v).length)
    (htext : u.decText = bufferOf 16 (encodeText u.actAlpha v)) :
    ∃ x, execDecode u = .next (finishDecode u x .ok) ∧ x.toInt = v := by
  have hfit := (encodeText_length_le u.actAlpha v hlo hhi).trans (show 14 ≤ 16 by omega)
  have hsign := decodeSign_of_text hlen htext
  have hm : v.natAbs ≤ 2 ^ 63 - 1 := by omega
  have hexec := fun hstr => execDecode_of_digitSymbols hlen htext hnodup hupper hfit hstr hc hm
  rcases lt_or_ge v 0 with hneg | hnonneg
  · rw [encodeText_of_neg _ hneg] at hsign hexec
    have hs : decodeSign u = true := hsign.mpr rfl
    refine ⟨_, hexec (by rw [decodeOffset_of_sign hs]; rfl), ?_⟩
    rw [toInt_signedResult u hm, if_pos hs]
    omega
  · rw [encodeText_of_nonneg _ hnonneg] at hsign hexec hlen
    cases hs : decodeSign u with
    | false =>
      refine ⟨_, hexec (by rw [decodeOffset_of_no_sign hs]; rfl), ?_⟩
      rw [toInt_signedResult u hm, hs]
      simp [hnonneg]
    | true =>
      have hzero : v.natAbs = 0 := by
        by_contra hne
        obtain ⟨d, hd, hhead⟩ := digitSymbols_head u.actAlpha hne
        rw [hsign.mp hs, Option.some_inj] at hhead
        exact hminus d hd hhead.symm
      rw [hzero, digitSymbols_of_lt _ 0 (by omega), List.length_singleton] at hlen
      have hcount : decodeCount u = 0 := by rw [decodeCount, hlen, decodeOffset_of_sign hs]
      exact ⟨0, execDecode_of_no_symbols hc hcount, by rw [Int.natAbs_eq_zero.mp hzero]; rfl⟩

/-! ### The statements -/

/-- Settles O46: the text that ENCODE leaves is the input that DECODE reads. -/
theorem decodeInvertsEncodeOnValues : Obligations.DecodeInvertsEncodeOnValues := by
  intro s t u hinv hc hupper hminus hv ht hlen htext halpha hcu
  cases (exec_encode_of_ne_min hc hv).symm.trans ht
  obtain ⟨hlo, hhi⟩ := toInt_range_of_ne_min hv
  have hle := encodeText_valIn_length_le hv
  rw [finishEncode_encLen, BitVec.toNat_ofNat, Nat.mod_eq_of_lt (by omega)] at hlen
  rw [finishEncode_actAlpha] at halpha
  rw [← halpha] at hupper hminus hlen htext
  obtain ⟨x, hexec, hx⟩ := execDecode_of_encodeText (hcu.trans hc) (halpha ▸ hinv.distinct hc) hupper
    hminus hlo hhi hlen htext
  refine ⟨_, hexec, rfl, ?_⟩
  rw [finishDecode_valOut]
  exact BitVec.toInt_inj.mp hx

/-- Settles O38: at most one of 15 bytes, and none of 14 that begin with no '-', is the sign. -/
theorem decodeRejectsMoreThan13Symbols : Obligations.DecodeRejectsMoreThan13Symbols := by
  intro s hc hlong
  refine exec_decode_of_zero (execDecode_of_long hc ?_)
  have hsum := decodeOffset_add_decodeCount s
  rcases hlong with h15 | ⟨h14, hbyte⟩
  · have hoffset := decodeOffset_le_one s
    omega
  · have hsign : decodeSign s = false := by
      rw [← Bool.not_eq_true, decodeSign_iff]
      exact fun h => hbyte h.2
    rw [decodeOffset_of_no_sign hsign] at hsum
    omega

/-- Settles O39: a symbol that no place of ALPHA holds is absent from the reverse map. -/
theorem decodeReportsAnInvalidSymbol : Obligations.DecodeReportsAnInvalidSymbol := by
  intro s hc hn ⟨i, hi, habsent⟩
  exact exec_decode_of_zero
    (execDecode_of_absent hc hn ⟨i, hi, (rmap_eq_none_iff _ _).mpr habsent⟩)

/-- Settles O40: the exact value fails the overflow test. -/
theorem decodeReportsAnExactOverflow : Obligations.DecodeReportsAnExactOverflow := by
  intro s d hc hn hd hx
  exact exec_decode_of_zero (by rw [execDecode_of_digits d hc hn hd, if_pos hx])

/-- Settles O41: VAL_OUT holds the halves of the signed value. -/
theorem decodeReturnsTheSignedValue : Obligations.DecodeReturnsTheSignedValue := by
  intro s d hc hn hd hx
  set x := digitSum (fun i => (d i).val) (decodeCount s)
  obtain ⟨p, n, hfinish⟩ := finishDecode_eq s (signedResult s x) .ok
  refine ⟨loHalf (signedResult s x), hiHalf (signedResult s x), p, n, ?_, ?_⟩
  · rw [exec_decode, execDecode_of_value d hc hn hd hx, hfinish, opField]
  · rw [← pairValue, pairValue_halves, toInt_signedResult s hx]

/-- Settles O42: neither input has a symbol. -/
theorem decodeOfNoSymbolsIsZero : Obligations.DecodeOfNoSymbolsIsZero := by
  intro s hc hinput
  refine exec_decode_of_zero (execDecode_of_no_symbols hc ?_)
  rcases hinput with hlen | ⟨hlen, hbyte⟩
  · simp [decodeCount, hlen]
  · have hsign : decodeSign s = true := (decodeSign_iff s).mpr ⟨by simp [hlen], hbyte⟩
    simp [decodeCount, decodeOffset_of_sign hsign, hlen]

/-- Settles O43: equal bytes are equal up to case. -/
theorem decodeReadsOnlyTheBytesOfItsInput : Obligations.DecodeReadsOnlyTheBytesOfItsInput :=
  fun _ _ _ hbyte h => exec_decode_withText (fun j h14 hl => congrArg lc (hbyte j h14 hl)) h

/-- Settles O44: bytes equal up to case at every place are so where DECODE looks. -/
theorem decodeIgnoresAsciiCase : Obligations.DecodeIgnoresAsciiCase :=
  fun _ _ _ hbyte h => exec_decode_withText (fun j _ _ => hbyte j) h

/-- Settles O45: a 64-bit value other than −2^63 is in the symmetric range. -/
theorem decodeResultIsInTheSymmetricRange : Obligations.DecodeResultIsInTheSymmetricRange := by
  intro s
  obtain ⟨x, code, hexec, hx⟩ := execDecode_value_ne_min s
  obtain ⟨hlo, hhi⟩ := toInt_range_of_ne_min hx
  refine ⟨_, hexec, ?_⟩
  rw [finishDecode_valOut]
  omega

/-- Settles O36: the codec check comes before the input is looked at. -/
theorem decodeWithoutCodecReportsNotConfigured :
    Obligations.DecodeWithoutCodecReportsNotConfigured :=
  fun _ hc => exec_decode_of_zero (execDecode_of_not_configured hc)

/-- Settles O37, by the rules about the sign and the two parts of the input. -/
theorem decodeSignIsALeadingMinus : Obligations.DecodeSignIsALeadingMinus :=
  fun s => ⟨decodeSign_iff s, decodeOffset_add_decodeCount s, decodeOffset_of_sign,
    decodeOffset_of_no_sign⟩

/-- Settles O49, by the two cases of lc. -/
theorem lowerCasingIsAsciiOnly : Obligations.LowerCasingIsAsciiOnly :=
  fun _ => ⟨lc_toNat_of_upper, lc_of_not_upper⟩

end Sys2Proof.Machine

/-! PROOFS of the statements about status codes and completion (60_exceptions.md): the ERR field of
STATUS, and the order of a completion and a clear of DONE. First the rules, then the statements. -/

namespace Sys2Proof.Machine

/-! ### The ERR field of STATUS -/

/-- The codes are numbered 0 to 7 (60_exceptions.md R200). -/
theorem StatusCode.bits_toNat_le_seven (c : StatusCode) : c.bits.toNat ≤ 7 := by
  cases c <;> decide

/-- Bits 11:8 of STATUS are ERR (10_state.md R27). -/
@[simp] theorem statusWord_field_err (s : State) :
    (statusWord s).extractLsb' 8 4 = s.err.bits := by
  apply BitVec.eq_of_toNat_eq
  have hbusy := s.busy.toNat_le
  have hdone := s.done.toNat_le
  have hvalid := s.cfgValid.toNat_le
  have hovr := s.ovr.toNat_le
  have herr := s.err.bits.isLt
  rw [BitVec.extractLsb'_toNat, statusWord_eq_ofNat, BitVec.toNat_ofNat, Nat.shiftRight_eq_div_pow]
  omega

/-! ### The two steps that write DONE while a command is pending -/

/-- The core's turn ends the pending command with DONE = 1 (40_command_control.md R104). -/
theorem step_completion_sets_done {s : State} {rest : List Turn} (hb : s.busy = true)
    (h : s.schedule = .core :: rest) :
    ∃ t, step s = .next t ∧ t.busy = false ∧ t.done = true ∧ t.schedule = rest := by
  obtain ⟨u, code, hu, -, -, -, -, hsched, -⟩ :=
    exec_completes (decodeWord s.pend) { s with schedule := rest }
  exact ⟨u.complete code, (step_core_busy s rest hb h).trans hu, rfl, rfl, hsched⟩

/-- A write of 2 to STATUS clears DONE and leaves BUSY (10_state.md R27). -/
theorem step_statusWrite_clears_done {s : State} {rest : List Turn}
    (h : s.schedule = .hostWrite 3 2 :: rest) :
    ∃ t, step s = .next t ∧ t.busy = s.busy ∧ t.done = false ∧ t.schedule = rest := by
  have hbit : (2 : Word).getLsbD 1 = true := by decide
  refine ⟨_, statusWriteClearsDoneAndOverrun s 2 rest h, rfl, ?_, rfl⟩
  simp only [hbit, if_true]

/-- Two steps of the block in a row. -/
theorem run_two {s t u : State} (hst : step s = .next t) (htu : step t = .next u) :
    Sys2Proof.core.run 2 s = .next u :=
  (run_succ 1 s t hst).trans (run_one t u htu)

/-! ### The statements -/

/-- Settles O24: the field is ERR's code, and no code is above 7. -/
theorem statusNeverReportsAReservedCode : Obligations.StatusNeverReportsAReservedCode := by
  refine ⟨⟨rfl, rfl, rfl, rfl, rfl, rfl, rfl, rfl⟩, fun s => ?_⟩
  rw [hostRead_status, statusWord_field_err]
  exact ⟨rfl, s.err.bits_toNat_le_seven⟩

/-- Settles O53: in either order the second step writes DONE last. -/
theorem laterOfCompletionAndClearWins : Obligations.LaterOfCompletionAndClearWins := by
  intro s rest hb
  refine ⟨fun hs => ?_, fun hs => ?_⟩
  · obtain ⟨t, hst, htBusy, -, ht⟩ := step_completion_sets_done hb hs
    obtain ⟨u, htu, huBusy, huDone, -⟩ := step_statusWrite_clears_done ht
    exact ⟨u, run_two hst htu, huBusy.trans htBusy, huDone⟩
  · obtain ⟨t, hst, htBusy, -, ht⟩ := step_statusWrite_clears_done hs
    obtain ⟨u, htu, huBusy, huDone, -⟩ := step_completion_sets_done (htBusy.trans hb) ht
    exact ⟨u, run_two hst htu, huBusy, huDone⟩

end Sys2Proof.Machine

/-! PROOFS of the statements about reset and about the time a command may take
(70_reset_and_hazards.md). First what reset leaves, then what host accesses before a completion can
change, then the statements. -/

namespace Sys2Proof.Machine

/-! ### Reset -/

/-- A step at the reset's turn. -/
theorem step_reset {s : State} {rest : List Turn} (h : s.schedule = .reset :: rest) :
    step s = .next (State.applyReset { s with schedule := rest }) :=
  step_cons s .reset rest h

/-- The host reads after a reset what it reads at the start (70_reset_and_hazards.md R230). -/
@[simp] theorem hostRead_applyReset (s : State) (w : HostIndex) :
    hostRead s.applyReset w = hostRead State.reset w := rfl

/-- CTRL reads 0 in the reset state (10_state.md R52). -/
theorem hostRead_reset_ctrl : hostRead State.reset 1 = 0 := by decide

/-- IRQ is 0 after reset (70_reset_and_hazards.md R233). -/
@[simp] theorem State.applyReset_irq (s : State) : s.applyReset.irq = false := rfl

/-- The default alphabet begins with the ten decimal digits (10_state.md R45). -/
theorem defaultAlphabet_digits :
    ∀ j : Fin 10, defaultAlphabet[j] = BitVec.ofNat 8 (0x30 + j.val) := by decide

/-- The default alphabet ends with the 26 lower-case letters (10_state.md R45). -/
theorem defaultAlphabet_letters :
    ∀ j : Fin 26, defaultAlphabet[10 + j.val] = BitVec.ofNat 8 (0x61 + j.val) := by decide

/-! ### What the host can change while a command is pending -/

/-- The state with other values in what host accesses can change while a command is pending:
CTRL.IE, OVR and DONE (40_command_control.md R107), and the word the host last read. -/
def State.withHostFields (s : State) (ie ovr dn : Bool) (r : Word) : State :=
  { s with ie := ie, ovr := ovr, done := dn, readData := r }

/-- A host access while a command is pending changes nothing else. -/
theorem step_host_access {s : State} {a : Turn} {rest : List Turn} (hb : s.busy = true)
    (ha : a.isHost = true) (h : s.schedule = a :: rest) :
    ∃ ie ovr dn r,
      step s = .next (State.withHostFields { s with schedule := rest } ie ovr dn r) := by
  cases a with
  | hostRead w => exact ⟨_, _, _, _, step_hostRead s w rest h⟩
  | hostWrite w d =>
    obtain ⟨ie, ovr, dn, e⟩ := hostWrite_busy { s with schedule := rest } w d hb
    exact ⟨ie, ovr, dn, s.readData, (step_hostWrite s w d rest h).trans (congrArg _ e)⟩
  | core | reset => simp [Turn.isHost] at ha

/-- Any number of host accesses while a command is pending change nothing else. -/
theorem run_host_accesses {s : State} {rest : List Turn} (accesses : List Turn) (hb : s.busy = true)
    (hhost : ∀ a ∈ accesses, a.isHost = true) (h : s.schedule = accesses ++ rest) :
    ∃ ie ovr dn r, Sys2Proof.core.run accesses.length s
      = .next (State.withHostFields { s with schedule := rest } ie ovr dn r) := by
  induction accesses generalizing s with
  | nil =>
    subst h
    exact ⟨s.ie, s.ovr, s.done, s.readData, rfl⟩
  | cons a accesses ih =>
    obtain ⟨ha, hrest⟩ := List.forall_mem_cons.mp hhost
    obtain ⟨ie, ovr, dn, r, hstep⟩ := step_host_access hb ha h
    obtain ⟨ie', ovr', dn', r', hrun⟩ := ih
      (s := State.withHostFields { s with schedule := accesses ++ rest } ie ovr dn r) hb hrest rfl
    exact ⟨ie', ovr', dn', r', (run_succ _ _ _ hstep).trans hrun⟩

/-! ### A command does the same whatever the host has changed -/

/-- CONFIG of the same staging registers takes the same one of its three outcomes. -/
theorem execConfig_withHostFields {s t : State} (ie ovr dn : Bool) (r : Word)
    (h : execConfig s = .next t) :
    execConfig (s.withHostFields ie ovr dn r) = .next (t.withHostFields ie ovr t.done r) := by
  rcases execConfig_cases s with ⟨hlen, e⟩ | ⟨hlen, hdup, e⟩ | ⟨hacc, e⟩ <;> cases e.symm.trans h
  · exact execConfig_of_length_ne (s := s.withHostFields ie ovr dn r) hlen
  · exact execConfig_of_not_nodup (s := s.withHostFields ie ovr dn r) hlen hdup
  · exact execConfig_of_accepted (s := s.withHostFields ie ovr dn r) hacc

/-- Two ENCODEs of the same value under the same codec end with the same string and code. -/
theorem execEncode_congr {s t : State} (hv : t.valIn = s.valIn) (hc : t.cfgValid = s.cfgValid)
    (ha : t.actAlpha = s.actAlpha) :
    ∃ str code, execEncode s = .next (finishEncode s str code)
      ∧ execEncode t = .next (finishEncode t str code) := by
  rw [execEncode_eq s, execEncode_eq t, hv, hc, ha]
  split_ifs <;> exact ⟨_, _, rfl, rfl⟩

/-- A command makes of other values in IE, OVR and the word last read only the same values after it,
and it sets DONE whatever DONE was (40_command_control.md R104). -/
theorem exec_withHostFields {i : Instr} {s t : State} (ie ovr dn : Bool) (r : Word)
    (h : exec i s = .next t) :
    exec i (s.withHostFields ie ovr dn r) = .next (t.withHostFields ie ovr t.done r) := by
  cases i with
  | nop | illegalOpLow | illegalOpHigh | illegalRsvd => cases h; rfl
  | config => exact execConfig_withHostFields ie ovr dn r h
  | encode =>
    obtain ⟨str, code, e, e'⟩ :=
      execEncode_congr (s := s) (t := s.withHostFields ie ovr dn r) rfl rfl rfl
    cases e.symm.trans h
    exact e'
  | decode =>
    obtain ⟨x, code, e, e'⟩ := execDecode_congr (s := s) (t := s.withHostFields ie ovr dn r)
      ⟨rfl, fun _ _ _ => rfl⟩ rfl rfl
    cases e.symm.trans h
    exact e'

/-! ### Every step takes one turn off the schedule -/

/-- No command places or takes a turn. -/
theorem exec_schedule {i : Instr} {s t : State} (h : exec i s = .next t) :
    t.schedule = s.schedule := by
  obtain ⟨u, code, hu, -, -, -, -, hsched, -⟩ := exec_completes i s
  cases hu.symm.trans h
  exact hsched

/-- A step of any kind takes the first turn off the schedule (20_memory.md R70; log 1). -/
theorem step_schedule {s t : State} (h : step s = .next t) : t.schedule = s.schedule.tail := by
  rcases step_cases h with ⟨w, -, rfl⟩ | ⟨w, d, -, rfl⟩ | ⟨-, he⟩ | ⟨-, -, rfl⟩ | ⟨-, rfl⟩
  · rfl
  · exact hostWrite_schedule s.popTurn w d
  · exact exec_schedule (s := s.popTurn) he
  · rfl
  · rfl

/-! ### The statements -/

/-- Settles O54: the accesses before the completion change only what no command looks at, and the
completion sets DONE whatever they did to it. -/
theorem resultsDoNotDependOnTheLatency : Obligations.ResultsDoNotDependOnTheLatency := by
  intro s t u accesses rest hb hhost ht hu
  obtain ⟨v, code, hv, -⟩ := exec_completes (decodeWord s.pend) { s with schedule := rest }
  have halone := (step_core_busy { s with schedule := .core :: rest } rest hb rfl).trans hv
  obtain ⟨ie, ovr, dn, r, haccesses⟩ := run_host_accesses (rest := .core :: rest) accesses
    (s := { s with schedule := accesses ++ .core :: rest }) hb hhost rfl
  have hlate := (step_core_busy
    (State.withHostFields { s with schedule := .core :: rest } ie ovr dn r) rest hb rfl).trans
      (exec_withHostFields ie ovr dn r hv)
  cases (run_one _ _ halone).symm.trans hu
  cases ((run_add _ 1 _ _ haccesses).trans (run_one _ _ hlate)).symm.trans ht
  rfl

/-- Settles O55, by induction on the turns scheduled: a step that leaves the command pending leaves
one turn fewer, and with none left the step is the completion (log 3). -/
theorem everyAcceptedCommandEndsInBoundedSteps :
    Obligations.EveryAcceptedCommandEndsInBoundedSteps := by
  intro s hb
  induction hturns : s.schedule generalizing s with
  | nil =>
    obtain ⟨-, -, hcore⟩ := stepRunsTheDecodedCommand s [] hb
    obtain ⟨t, hstep⟩ := everyStepAnswersANextState s
    exact ⟨1, t, le_rfl, run_one s t hstep, exec_idle ((hcore hturns).symm.trans hstep)⟩
  | cons a rest ih =>
    obtain ⟨t, hstep⟩ := everyStepAnswersANextState s
    have hrest : t.schedule = rest := by rw [step_schedule hstep, hturns, List.tail_cons]
    cases hbt : t.busy with
    | false => exact ⟨1, t, by simp, run_one s t hstep, hbt⟩
    | true =>
      obtain ⟨k, u, hk, hrun, hidle⟩ := ih t hbt hrest
      exact ⟨k + 1, u, Nat.succ_le_succ hk, (run_succ k s t hstep).trans hrun, hidle⟩

/-- Settles O17: the values are those of the reset state. -/
theorem resetStepSetsEveryResetValue : Obligations.ResetStepSetsEveryResetValue := by
  intro s rest hs
  obtain ⟨-, -, hstatus, hvalIn, hvalOut, -⟩ := resetStateHoldsTheListedValues
  have hzero : ∀ j : Fin 16, (Vector.replicate 16 (0 : Byte))[j] = 0 := fun j => by simp
  exact ⟨_, step_reset hs, (hostRead_applyReset _ 1).trans hostRead_reset_ctrl,
    (hostRead_applyReset _ 3).trans hstatus, hvalIn, hvalOut, rfl, rfl, rfl,
    fun j => ⟨hzero j, hzero j⟩, rfl, rfl, defaultAlphabet_digits, defaultAlphabet_letters,
    State.applyReset_irq _, rfl⟩

/-- Settles O19: after the reset no command is pending, so the core's turn changes nothing
(log 4). -/
theorem resetAbandonsThePendingCommand : Obligations.ResetAbandonsThePendingCommand := by
  intro s rest _ hs
  obtain ⟨-, -, -, -, hvalOut, -⟩ := resetStateHoldsTheListedValues
  obtain ⟨hcore, -⟩ := idleCoreTurnLeavesTheBlockUnchanged
    (State.applyReset { s with schedule := .core :: rest }) rest rfl
  exact ⟨_, run_two (step_reset hs) (hcore rfl), rfl, rfl, rfl, hvalOut, rfl, rfl, rfl, rfl⟩

end Sys2Proof.Machine
